-- ==== Sys2Proof/Word.lean ====
section
/-! DEFINITION. The widths of 00_scope.md rules R6, R7, R10, R11 and R17 as types. -/

namespace Sys2Proof

/-- A one-bit field `u1` (R17, R18). -/
abbrev Bit := BitVec 1

/-- A byte; bit 7 is its most significant bit (R17). -/
abbrev Byte := BitVec 8

/-- A command word `cmd[63:0]` (30_encoding.md rule R65). -/
abbrev Command := BitVec 64

/-- A 7-bit bus device address (R11, 20_memory.md rule R42). -/
abbrev DevAddr := BitVec 7

/-- The 14-bit frequency word and the 14-bit readback word (R10). -/
abbrev PllWord := BitVec 14

end Sys2Proof
end

