-- ==== Sys2Proof/Config.lean ====
section
/-! DEFINITION. What an implementation fixes (the named parameters of 00_scope.md rules R13 to R16), the
values that pass over the bus (20_memory.md), and the free values: what the bus agent answers when State
lists no answer for it. -/

namespace Sys2Proof

/-- `STEREO_BIT_POLARITY ∈ {INVERTED, DIRECT}` (R13). -/
inductive StereoPolarity where
  | inverted
  | direct
deriving DecidableEq, Repr, Inhabited

/-- `TIE_RULE ∈ {HALF_EVEN, HALF_UP}` (R14). -/
inductive TieRule where
  | halfEven
  | halfUp
deriving DecidableEq, Repr, Inhabited

/-- The named parameters "the model takes as an argument" (00_scope.md section 3). State carries one such
record and no step changes it, so a claim about every state is a claim for every choice (log 5). -/
structure Params where
  /-- `STEREO_BIT_POLARITY` (R13). -/
  stereoPolarity : StereoPolarity
  /-- `TIE_RULE` (R14). -/
  tieRule : TieRule
  /-- `SKIP_INITIAL_SYNC_WHEN_ZERO` (R15). -/
  skipInitialSyncWhenZero : Bool
  /-- `SETTLE_DELAY`, at least 0 (R16); DESIGN CHOICE: counted in microseconds (log 6). -/
  settleDelay : Nat
deriving DecidableEq, Repr, Inhabited

/-- The spec's defaults: INVERTED, HALF_EVEN, false, 1 ms (R13 to R16). -/
def Params.default : Params :=
  { stereoPolarity := .inverted, tieRule := .halfEven, skipInitialSyncWhenZero := false, settleDelay := 1000 }

/-- Five image bytes, indices 0 to 4 (20_memory.md rules R45 and R46). -/
structure Image where
  b0 : Byte
  b1 : Byte
  b2 : Byte
  b3 : Byte
  b4 : Byte
deriving DecidableEq, Repr, Inhabited

/-- An opaque BusError value `e` (R43): the block never looks inside. DESIGN CHOICE: one natural number tells
one error value from another, since the spec gives the values no structure (log 9). -/
structure BusError where
  tag : Nat
deriving DecidableEq, Repr, Inhabited

/-- What `MemWrite` returns: `Ok` or `Err(e)` (R43). -/
inductive WriteResult where
  | ok
  | err (e : BusError)
deriving DecidableEq, Repr, Inhabited

/-- What `MemRead` returns: `Ok(buf)` or `Err(e)` (R44). -/
inductive ReadResult where
  | ok (buf : Image)
  | err (e : BusError)
deriving DecidableEq, Repr, Inhabited

/-- An entry of the bus history. R43 and R44 name the write and the read event. DESIGN CHOICE: the settle step
between them is an event too, so that the order write, settle, read of R124 can be read off (log 4). -/
inductive BusEvent where
  /-- `BusWriteEv(addr, img, result)` (R43). -/
  | busWriteEv (addr : DevAddr) (img : Image) (result : WriteResult)
  /-- The settle step (R90): at least this long, in the unit of `Params.settleDelay`. -/
  | settleEv (atLeast : Nat)
  /-- `BusReadEv(addr, result)` (R44). -/
  | busReadEv (addr : DevAddr) (result : ReadResult)
deriving DecidableEq, Repr, Inhabited

/-- FREE VALUE (R43: the bus agent chooses, "the block assumes nothing about the choice"): the write result
where State lists none. Applied to the draw counter, everything the bus has seen so far and this request, so
that nothing relates two draws (log 7). -/
opaque Config.freeWriteResult (draw : Nat) (past : List BusEvent) (addr : DevAddr) (img : Image) : WriteResult

/-- FREE VALUE (R44: "A model treats them as a draw: any 5 bytes"): the read result where State lists none
(log 7). -/
opaque Config.freeReadResult (draw : Nat) (past : List BusEvent) (addr : DevAddr) : ReadResult

end Sys2Proof
end

