-- ==== Sys2Proof/Syntax.lean ====
section
/-! DEFINITION. The six host commands as syntax, one constructor per row of spec/opcode_table.json
(30_encoding.md rules R65 to R69), and the responses the decoder and the commands give. -/

namespace Sys2Proof

/-- A host command with the operand fields its row of R67 gives it. One-bit fields, `A7` and `BND` are the
fields themselves; an immediate is the integer `imm = sext_32(cmd[31:0])` of R68. -/
inductive Instr where
  /-- INIT (40_commands.md rule R74): `A7`, `imm` in kHz, `BND`, `ST`, `SM`, `NC`, `HC`. -/
  | init (a7 : DevAddr) (imm : Int) (bnd : BitVec 2) (st sm nc hc : Bit)
  /-- SETF (R75): `imm`, the new frequency in kHz. -/
  | setf (imm : Int)
  /-- CHGF (R76): `imm`, the delta in kHz. -/
  | chgf (imm : Int)
  /-- SRCH (R77): `EN`, `DIR` (1 = Up), `imm`, the requested ADC threshold level. -/
  | srch (en dir : Bit) (imm : Int)
  /-- MUTE (R79): `EN`. -/
  | mute (en : Bit)
  /-- STBY (R80): `EN`. -/
  | stby (en : Bit)
deriving DecidableEq, Repr

/-- The rows of the opcode table (R66). -/
inductive Opcode where
  | init
  | setf
  | chgf
  | srch
  | mute
  | stby
deriving DecidableEq, Repr

/-- The causes of an `ILLEGAL` response (60_exceptions.md rule R106, codes 1 to 4). -/
inductive IllegalCause where
  /-- `ILLEGAL_OPCODE`. -/
  | opcode
  /-- `ILLEGAL_RESERVED_BITS`. -/
  | reservedBits
  /-- `ILLEGAL_NOT_CONSTRUCTED`. -/
  | notConstructed
  /-- `ILLEGAL_ALREADY_CONSTRUCTED`. -/
  | alreadyConstructed
deriving DecidableEq, Repr

/-- Which bus operation failed (R105). -/
inductive Phase where
  | write
  | read
deriving DecidableEq, Repr

/-- The responses (R103, R106). An `ILLEGAL` records the full command word, a `TRANSPORT` the BusError
verbatim. -/
inductive Response where
  | ok
  | illegal (cause : IllegalCause) (cmd : Command)
  | transport (phase : Phase) (e : BusError)
deriving DecidableEq, Repr

/-- Whether a command is INIT. -/
def Instr.isInit : Instr → Bool
  | .init _ _ _ _ _ _ _ => true
  | .setf _ => false
  | .chgf _ => false
  | .srch _ _ _ => false
  | .mute _ => false
  | .stby _ => false

/-- Whether a response is `ILLEGAL`. -/
def Response.isIllegal : Response → Bool
  | .illegal _ _ => true
  | .ok => false
  | .transport _ _ => false

end Sys2Proof
end

