-- ==== Sys2Proof/WellFormed.lean ====
section
/-! DEFINITION. Which instruction terms a command word can hold. The field types hold all but one check: an
immediate lies in the range of `sext_32` (30_encoding.md rule R68). -/

namespace Sys2Proof

/-- The range of a 32-bit two's complement immediate, `-2^31 .. 2^31-1` (R68). -/
def immInRange (imm : Int) : Bool := -2147483648 ≤ imm && imm ≤ 2147483647

/-- The well-formedness check. -/
def Instr.wf : Instr → Bool
  | .init _ imm _ _ _ _ _ => immInRange imm
  | .setf imm => immInRange imm
  | .chgf imm => immInRange imm
  | .srch _ _ imm => immInRange imm
  | .mute _ => true
  | .stby _ => true

/-- `i` can stand in a command word. -/
abbrev Instr.WellFormed (i : Instr) : Prop := i.wf = true

end Sys2Proof
end

