-- ==== Sys2Proof/Decode.lean ====
section
/-! DEFINITION. The command decoder, total on every 64-bit word (30_encoding.md rules R65 to R69 and R72), and
after it the encoder, written from the same tables. -/

namespace Sys2Proof

/-- The opcode numbers of R66; every other number is reserved. -/
def Opcode.ofBits (op : BitVec 4) : Option Opcode :=
  if op = 0x1#4 then some .init
  else if op = 0x2#4 then some .setf
  else if op = 0x3#4 then some .chgf
  else if op = 0x4#4 then some .srch
  else if op = 0x5#4 then some .mute
  else if op = 0x6#4 then some .stby
  else none

/-- The `match` column of R67. -/
def Opcode.matchBits : Opcode → Command
  | .init => 0x1000000000000000#64
  | .setf => 0x2000000000000000#64
  | .chgf => 0x3000000000000000#64
  | .srch => 0x4000000000000000#64
  | .mute => 0x5000000000000000#64
  | .stby => 0x6000000000000000#64

/-- The `mask` column of R67. -/
def Opcode.mask : Opcode → Command
  | .init => 0xFFFF800300000000#64
  | .setf => 0xFFFFFFFF00000000#64
  | .chgf => 0xFFFFFFFF00000000#64
  | .srch => 0xFFFFFFFC00000000#64
  | .mute => 0xFFFFFFFEFFFFFFFF#64
  | .stby => 0xFFFFFFFEFFFFFFFF#64

/-- The fields of R65, named as there. -/
def fieldOP (cmd : Command) : BitVec 4 := cmd.extractLsb' 60 4
/-- `A7 = cmd[46:40]` (R65). -/
def fieldA7 (cmd : Command) : DevAddr := cmd.extractLsb' 40 7
/-- `BND = cmd[39:38]` (R65). -/
def fieldBND (cmd : Command) : BitVec 2 := cmd.extractLsb' 38 2
/-- `HC = cmd[37]` (R65). -/
def fieldHC (cmd : Command) : Bit := cmd.extractLsb' 37 1
/-- `NC = cmd[36]` (R65). -/
def fieldNC (cmd : Command) : Bit := cmd.extractLsb' 36 1
/-- `SM = cmd[35]` (R65). -/
def fieldSM (cmd : Command) : Bit := cmd.extractLsb' 35 1
/-- `ST = cmd[34]` (R65). -/
def fieldST (cmd : Command) : Bit := cmd.extractLsb' 34 1
/-- `DIR = cmd[33]` (R65). -/
def fieldDIR (cmd : Command) : Bit := cmd.extractLsb' 33 1
/-- `EN = cmd[32]` (R65). -/
def fieldEN (cmd : Command) : Bit := cmd.extractLsb' 32 1
/-- `imm = sext_32(cmd[31:0])` (R68). -/
def fieldImm (cmd : Command) : Int := (cmd.extractLsb' 0 32).toInt

/-- The instruction of a row, its operands read from a word (R67, R72). -/
def Opcode.read : Opcode → Command → Instr
  | .init, cmd =>
    .init (fieldA7 cmd) (fieldImm cmd) (fieldBND cmd) (fieldST cmd) (fieldSM cmd) (fieldNC cmd) (fieldHC cmd)
  | .setf, cmd => .setf (fieldImm cmd)
  | .chgf, cmd => .chgf (fieldImm cmd)
  | .srch, cmd => .srch (fieldEN cmd) (fieldDIR cmd) (fieldImm cmd)
  | .mute, cmd => .mute (fieldEN cmd)
  | .stby, cmd => .stby (fieldEN cmd)

/-- `decode` of R72: the opcode check, then the must-be-zero bits, then the fields. -/
def decode (cmd : Command) : Except IllegalCause Instr :=
  match Opcode.ofBits (fieldOP cmd) with
  | none => .error .opcode
  | some op => if cmd &&& op.mask = op.matchBits then .ok (op.read cmd) else .error .reservedBits

/-- A word laid out field by field, high to low, in the order of R65 (`RSV` is zero). -/
def wordOf (op : BitVec 4) (a7 : DevAddr) (bnd : BitVec 2) (hc nc sm st dir en : Bit) (imm : Int) : Command :=
  op ++ 0#13 ++ a7 ++ bnd ++ hc ++ nc ++ sm ++ st ++ dir ++ en ++ BitVec.ofInt 32 imm

/-- The command word of an instruction (R65 to R69); fields the row does not use are 0. -/
def encode : Instr → Command
  | .init a7 imm bnd st sm nc hc => wordOf 0x1#4 a7 bnd hc nc sm st 0#1 0#1 imm
  | .setf imm => wordOf 0x2#4 0#7 0#2 0#1 0#1 0#1 0#1 0#1 0#1 imm
  | .chgf imm => wordOf 0x3#4 0#7 0#2 0#1 0#1 0#1 0#1 0#1 0#1 imm
  | .srch en dir imm => wordOf 0x4#4 0#7 0#2 0#1 0#1 0#1 0#1 dir en imm
  | .mute en => wordOf 0x5#4 0#7 0#2 0#1 0#1 0#1 0#1 0#1 en 0
  | .stby en => wordOf 0x6#4 0#7 0#2 0#1 0#1 0#1 0#1 0#1 en 0

/-- The row of the table an instruction belongs to. -/
def Instr.opcode : Instr → Opcode
  | .init _ _ _ _ _ _ _ => .init
  | .setf _ => .setf
  | .chgf _ => .chgf
  | .srch _ _ _ => .srch
  | .mute _ => .mute
  | .stby _ => .stby

/-- A table word of `nbits` bits as a command word: the bits above `nbits` are 0. -/
def commandOfTableWord (nbits w : Nat) : Command := BitVec.ofNat 64 (w % 2 ^ nbits)

/-- What the decoder reads from a word numbered as spec/opcode_table.json numbers it (every row has 64 bits). -/
def decodeTableWord (nbits w : Nat) : Option Instr :=
  match decode (commandOfTableWord nbits w) with
  | .ok i => some i
  | .error _ => none

end Sys2Proof
end

