-- ==== Sys2Proof/Machine/State.lean ====
section
/-! DEFINITION. The state of the block and of its ports (10_state.md, 20_memory.md, 60_exceptions.md), as plain
data, and the state after reset (70_reset_and_hazards.md rule R118). -/

namespace Sys2Proof.Machine

/-- The lifecycle values of `LC` (R38). -/
inductive Lifecycle where
  | unconstructed
  | ready
deriving DecidableEq, Repr, Inhabited

/-- The configuration register file, TunerConfiguration (10_state.md section 2). -/
structure ConfigFile where
  /-- `F`: s32, kHz (R21). -/
  f : BitVec 32
  /-- `BAND`: 00 US, 01 JP, 10 and 11 unrecognised (R22). -/
  band : BitVec 2
  /-- `MUTE` (R23). -/
  mute : Bit
  /-- `STBY` (R24). -/
  stby : Bit
  /-- `STEREO` (R25). -/
  stereo : Bit
  /-- `SMUTE` (R26). -/
  smute : Bit
  /-- `HCC` (R27). -/
  hcc : Bit
  /-- `SNC` (R28). -/
  snc : Bit
  /-- `SRCH` (R29). -/
  srch : Bit
  /-- `SUD`: 1 = Up (R30). -/
  sud : Bit
  /-- `SSL`: the code of the threshold level (R31). -/
  ssl : BitVec 2
  /-- `ADDR` (R32). -/
  addr : DevAddr
deriving DecidableEq, Repr, Inhabited

/-- The status register file, TunerStatus (10_state.md section 3). -/
structure StatusFile where
  /-- `RDY` (R33). -/
  rdy : Bit
  /-- `OBSF`: s12, 100 kHz units (R34). -/
  obsf : BitVec 12
  /-- `STDET` (R35). -/
  stdet : Bit
  /-- `LEV` (R36). -/
  lev : BitVec 4
deriving DecidableEq, Repr, Inhabited

/-- What the host does to the block: it issues a command word (R20, R65) or asserts the reset input (R118). -/
inductive HostInput where
  | command (cmd : Command)
  | reset
deriving DecidableEq, Repr

/-- The state. `cfg`, `status`, `stvalid` and `lc` are the block's registers; `params` are the implementation
parameters; `inputs`, `responses` and `history` are the ports and the record the spec gives the model;
`writeAnswers`, `readAnswers` and `draws` are the MODEL's own, the bus agent's side (log 7). -/
structure State where
  /-- The configuration registers (10_state.md section 2). -/
  cfg : ConfigFile
  /-- The status registers (10_state.md section 3). -/
  status : StatusFile
  /-- `STVALID` (R37). -/
  stvalid : Bit
  /-- `LC` (R38). -/
  lc : Lifecycle
  /-- The named parameters (R13 to R16); no step changes them. -/
  params : Params
  /-- What the host will do, oldest first; a step takes the first (R20, R53). -/
  inputs : List HostInput
  /-- The responses given on the response port, oldest first (R103). -/
  responses : List Response
  /-- The bus history, oldest first (R43, R44). -/
  history : List BusEvent
  /-- The write results the bus will give, oldest first; past the end, free values (R43). -/
  writeAnswers : List WriteResult
  /-- The read results the bus will give, oldest first; past the end, free values (R44). -/
  readAnswers : List ReadResult
  /-- How many free values have been drawn. -/
  draws : Nat
deriving DecidableEq, Repr

/-- The observation faults of R111: a read of a register that holds no value, through the observation port.
They change no state and are no response. Safe: the model gives such a read no value. -/
inductive Fault where
  /-- `OBS_NOT_CONSTRUCTED`: raised by `observe` on a configuration register while `LC = UNCONSTRUCTED`. Safe. -/
  | obsNotConstructed
  /-- `OBS_STATUS_NOT_VALID`: raised by `observe` on a status register while `LC = UNCONSTRUCTED` or
  `STVALID = 0`. Safe. -/
  | obsStatusNotValid
deriving DecidableEq, Repr

/-- Why the model would give an instruction no meaning. No instruction of this block is refused; a command the
block itself turns away gets the response `ILLEGAL`, which is a next state (R107). -/
inductive Refusal where
  /-- Raised by an arm of `exec` that has no meaning yet; no arm raises it. Safe. -/
  | notModelled (mnemonic : String)
deriving DecidableEq, Repr

/-- The placeholder contents of configuration registers that hold no value (R118). DESIGN CHOICE, unsafe: zeros
(log 1); no command and no observation reads them. -/
def ConfigFile.unset : ConfigFile :=
  { f := 0#32, band := 0#2, mute := 0#1, stby := 0#1, stereo := 0#1, smute := 0#1, hcc := 0#1, snc := 0#1,
    srch := 0#1, sud := 0#1, ssl := 0#2, addr := 0#7 }

/-- The placeholder contents of status registers that hold no value (R118). DESIGN CHOICE, unsafe: zeros
(log 1); no command and no observation reads them. -/
def StatusFile.unset : StatusFile :=
  { rdy := 0#1, obsf := 0#12, stdet := 0#1, lev := 0#4 }

/-- The machine right after a hardware reset (R118), with the spec's default parameters (R13 to R16), nothing
asked of it yet and nothing answered. -/
def State.reset : State :=
  { cfg := ConfigFile.unset
    status := StatusFile.unset
    stvalid := 0#1
    lc := .unconstructed
    params := Params.default
    inputs := []
    responses := []
    history := []
    writeAnswers := []
    readAnswers := []
    draws := 0 }

end Sys2Proof.Machine
end

