-- ==== Sys2Proof/Machine/Operands.lean ====
section
/-! DEFINITION. The arithmetic of 00_scope.md rule R18 and the pure functions that turn an operand into what a
register holds: band coercion, clamping (41_sync_encode.md rules R82 and R83) and threshold snapping
(40_commands.md rule R78). -/

namespace Sys2Proof.Machine

/-- `bit(c)`: 1 if `c` holds, 0 otherwise (R17). -/
def bit (c : Bool) : Bit := if c then 1#1 else 0#1

/-- `clamp(v, lo, hi)` (R18). -/
def clamp (v lo hi : Int) : Int := if v < lo then lo else if hi < v then hi else v

/-- `floorDiv(n, d)`: the greatest integer `q` with `q*d ≤ n`, for `d > 0` (R18). -/
def floorDiv (n d : Int) : Int := n / d

/-- `roundDiv(n, d, t)`: the integer nearest `n/d`, an exact half decided by `t` (R18). -/
def roundDiv (n d : Int) (t : TieRule) : Int :=
  let k := floorDiv n d
  let rest := n - k * d
  if 2 * rest < d then k
  else if d < 2 * rest then k + 1
  else
    match t with
    | .halfEven => if k % 2 = 0 then k else k + 1
    | .halfUp => k + 1

/-- The code of JP in `BAND` (R22). -/
def bandJP : BitVec 2 := 0b01#2

/-- The code of US in `BAND` (R22). -/
def bandUS : BitVec 2 := 0b00#2

/-- COERCE (R82): any code but JP becomes US. -/
def coerceBand (band : BitVec 2) : BitVec 2 := if band = bandJP then bandJP else bandUS

/-- The low limit of a band in kHz (R8, R83). -/
def bandLo (band : BitVec 2) : Int := if band = bandJP then 76000 else 87500

/-- The high limit of a band in kHz (R8, R83). -/
def bandHi (band : BitVec 2) : Int := if band = bandJP then 91000 else 108000

/-- CLAMP (R83): `clamp(fin, lo, hi)` with the limits of the band. -/
def clampToBand (fin : Int) (band : BitVec 2) : Int := clamp fin (bandLo band) (bandHi band)

/-- SNAP (R78): the code of a legal threshold level (R64), of level 7 for anything else. -/
def snap (level : Int) : BitVec 2 :=
  if level = 0 then 0b00#2
  else if level = 5 then 0b01#2
  else if level = 7 then 0b10#2
  else if level = 10 then 0b11#2
  else 0b10#2

/-- The level an `SSL` code stands for (R64). -/
def levelOfCode (code : BitVec 2) : Int :=
  if code = 0b00#2 then 0 else if code = 0b01#2 then 5 else if code = 0b10#2 then 7 else 10

end Sys2Proof.Machine
end

