-- ==== Sys2Proof/Machine/Encoder.lean ====
section
/-! DEFINITION. The register encoder: quantization, stereo bit and packing (41_sync_encode.md rules R84 to R88,
30_encoding.md rules R58 to R62). -/

namespace Sys2Proof.Machine

/-- QUANT (R84): `roundDiv(1000 f + 225000, 8192, TIE_RULE)`, the PLL word as an exact integer. -/
def quant (t : TieRule) (f : Int) : Int := roundDiv (1000 * f + 225000) 8192 t

/-- The 14-bit PLL word `w` of SYNC step 2 (R81, R84). -/
def pllWord (p : Params) (c : ConfigFile) : PllWord := BitVec.ofInt 14 (quant p.tieRule c.f.toInt)

/-- `freqH = w[13:8]` (R86). -/
def freqH (w : PllWord) : BitVec 6 := w.extractLsb' 8 6

/-- `freqL = w[7:0]` (R86). -/
def freqL (w : PllWord) : Byte := w.extractLsb' 0 8

/-- The stereo bit `MS` (R87): `1 - STEREO` under INVERTED, `STEREO` under DIRECT. -/
def stereoBit (polarity : StereoPolarity) (stereo : Bit) : Bit :=
  match polarity with
  | .inverted => 1#1 - stereo
  | .direct => stereo

/-- Write byte 0, `{MUTE, SRCH, w[13:8]}` (R58). -/
def writeByte0 (c : ConfigFile) (w : PllWord) : Byte := c.mute ++ c.srch ++ freqH w

/-- Write byte 1, `w[7:0]` (R59). -/
def writeByte1 (w : PllWord) : Byte := freqL w

/-- Write byte 2, `{SUD, SSL[1:0], 1, MS, 0b000}` (R60). -/
def writeByte2 (p : Params) (c : ConfigFile) : Byte :=
  c.sud ++ c.ssl ++ 1#1 ++ stereoBit p.stereoPolarity c.stereo ++ 0b000#3

/-- Write byte 3, `{0, STBY, bit(BAND = 0b01), 1, SMUTE, HCC, SNC, 0}` (R61). -/
def writeByte3 (c : ConfigFile) : Byte :=
  0#1 ++ c.stby ++ bit (c.band = bandJP) ++ 1#1 ++ c.smute ++ c.hcc ++ c.snc ++ 0#1

/-- Write byte 4, reserved (R62). -/
def writeByte4 : Byte := 0x00#8

/-- PACK (R88): the write image of word `w` and the configuration registers. -/
def packWord (p : Params) (c : ConfigFile) (w : PllWord) : Image :=
  { b0 := writeByte0 c w, b1 := writeByte1 w, b2 := writeByte2 p c, b3 := writeByte3 c, b4 := writeByte4 }

/-- SYNC steps 2 and 3 (R81): quantize `F`, then pack. -/
def writeImage (p : Params) (c : ConfigFile) : Image := packWord p c (pllWord p c)

/-- An image as the byte sequence the bus gets, byte 0 first (R45 to R47). -/
def imageBytes (img : Image) : List Byte := [img.b0, img.b1, img.b2, img.b3, img.b4]

end Sys2Proof.Machine
end

