-- ==== Sys2Proof/Machine/Flags.lean ====
section
/-! DEFINITION. The status decoder DECODE (42_status_decode.md rules R94 to R102): every status register as a
function of the read image alone. -/

namespace Sys2Proof.Machine

/-- `RDY <- B0[7]` (R95). -/
def statusRdy (buf : Image) : Bit := buf.b0.extractLsb' 7 1

/-- The readback word `rw = {B0[5:0], B1[7:0]}` (R96). -/
def readbackWord (buf : Image) : PllWord := buf.b0.extractLsb' 0 6 ++ buf.b1

/-- DEQUANT (R97): the observed frequency in 100 kHz units; by R98 the tie rule has no effect. -/
def dequant (rw : Int) : Int := roundDiv (8192 * rw - 225000) 100000 .halfEven

/-- `OBSF` (R97), stored as s12 (R34). -/
def statusObsf (buf : Image) : BitVec 12 := BitVec.ofInt 12 (dequant (readbackWord buf).toNat)

/-- `STDET <- B2[7]` (R99). -/
def statusStdet (buf : Image) : Bit := buf.b2.extractLsb' 7 1

/-- `LEV <- B3[7:4]` (R100). -/
def statusLev (buf : Image) : BitVec 4 := buf.b3.extractLsb' 4 4

/-- DECODE's four status values (R94). -/
def decodeStatus (buf : Image) : StatusFile :=
  { rdy := statusRdy buf, obsf := statusObsf buf, stdet := statusStdet buf, lev := statusLev buf }

end Sys2Proof.Machine
end

