-- ==== Sys2Proof/Machine/Ops.lean ====
section
/-! DEFINITION. The named operations on the state: register writes, the response port, the bus port
(20_memory.md rules R43, R44), hardware reset (70_reset_and_hazards.md rule R118), the observation port
(10_state.md rule R40, 60_exceptions.md rule R111), and the one operation that ends a command in a failing
response (60_exceptions.md rule R109: there is no trap entry and no return). -/

namespace Sys2Proof.Machine

/-- Writes the configuration register file. -/
def State.withCfg (s : State) (c : ConfigFile) : State := { s with cfg := c }

/-- Writes the status register file, all four registers at once (R101). -/
def State.withStatus (s : State) (st : StatusFile) : State := { s with status := st }

/-- `x[STVALID] <- v` (R37). -/
def State.withStvalid (s : State) (v : Bit) : State := { s with stvalid := v }

/-- `x[LC] <- v` (R38). -/
def State.withLc (s : State) (v : Lifecycle) : State := { s with lc := v }

/-- Sets what the host will do next. -/
def State.withInputs (s : State) (is : List HostInput) : State := { s with inputs := is }

/-- Sets what the bus will answer to writes and reads. -/
def State.withAnswers (s : State) (ws : List WriteResult) (rs : List ReadResult) : State :=
  { s with writeAnswers := ws, readAnswers := rs }

/-- Gives one response on the response port (R103). -/
def State.respond (s : State) (r : Response) : State := { s with responses := s.responses ++ [r] }

/-- Records one event in the bus history (R43, R44). -/
def State.record (s : State) (e : BusEvent) : State := { s with history := s.history ++ [e] }

/-- `raise ILLEGAL(cause)` (R73, R107): the response, recording the command word, and nothing else. -/
def raiseIllegal (cause : IllegalCause) (cmd : Command) (s : State) : State := s.respond (.illegal cause cmd)

/-- The bus agent's choice of a write result (R43): the next listed answer, else a free value. -/
def drawWrite (addr : DevAddr) (img : Image) (s : State) : WriteResult × State :=
  match s.writeAnswers with
  | r :: rest => (r, { s with writeAnswers := rest })
  | [] => (Config.freeWriteResult s.draws s.history addr img, { s with draws := s.draws + 1 })

/-- The bus agent's choice of a read result (R44): the next listed answer, else a free value. -/
def drawRead (addr : DevAddr) (s : State) : ReadResult × State :=
  match s.readAnswers with
  | r :: rest => (r, { s with readAnswers := rest })
  | [] => (Config.freeReadResult s.draws s.history addr, { s with draws := s.draws + 1 })

/-- `MemWrite(addr, 5, img)` (R43): the bus answers, the event is recorded, block state is untouched. -/
def memWrite (addr : DevAddr) (img : Image) (s : State) : WriteResult × State :=
  let drawn := drawWrite addr img s
  (drawn.1, drawn.2.record (.busWriteEv addr img drawn.1))

/-- `wait SETTLE_DELAY` (R90): an event between the write and the read; the model has no time (R124). -/
def settle (s : State) : State := s.record (.settleEv s.params.settleDelay)

/-- `MemRead(addr, 5)` (R44): the bus answers, the event is recorded, block state is untouched. -/
def memRead (addr : DevAddr) (s : State) : ReadResult × State :=
  let drawn := drawRead addr s
  (drawn.1, drawn.2.record (.busReadEv addr drawn.1))

/-- DECODE (R94, R101): the four status registers and `STVALID <- 1`, as one unit. -/
def decodeInto (buf : Image) (s : State) : State := (s.withStatus (decodeStatus buf)).withStvalid 1#1

/-- A block with nothing asked of it stays as it is. DESIGN CHOICE (log 2): the spec describes no idle step. -/
def idle (s : State) : State := s

/-- Hardware reset (R118): `LC`, `STVALID`, and every other register without a value (log 1). No bus access and
no response; the ports' records, the bus agent and the parameters are no registers of the block. -/
def hardwareReset (s : State) : State :=
  { s with cfg := ConfigFile.unset, status := StatusFile.unset, stvalid := 0#1, lc := .unconstructed }

/-- The registers by name (10_state.md sections 2 to 4); the observation port names them so (R40). -/
inductive RegName where
  | f | band | mute | stby | stereo | smute | hcc | snc | srch | sud | ssl | addr
  | rdy | obsf | stdet | lev
  | stvalid | lc
deriving DecidableEq, Repr

/-- What a read of the observation port gives: the register's value as an integer, signed where the register is
(R21, R34), or a lifecycle value. -/
inductive ObsValue where
  | num (v : Int)
  | lifecycle (v : Lifecycle)
deriving DecidableEq, Repr

/-- Which file a register belongs to. -/
inductive RegFile where
  | config
  | status
  | bookkeeping
deriving DecidableEq, Repr

/-- The register file of a name (10_state.md). -/
def RegName.file : RegName → RegFile
  | .f | .band | .mute | .stby | .stereo | .smute | .hcc | .snc | .srch | .sud | .ssl | .addr => .config
  | .rdy | .obsf | .stdet | .lev => .status
  | .stvalid | .lc => .bookkeeping

/-- The value a register's bits stand for. -/
def regValue (s : State) : RegName → ObsValue
  | .f => .num s.cfg.f.toInt
  | .band => .num s.cfg.band.toNat
  | .mute => .num s.cfg.mute.toNat
  | .stby => .num s.cfg.stby.toNat
  | .stereo => .num s.cfg.stereo.toNat
  | .smute => .num s.cfg.smute.toNat
  | .hcc => .num s.cfg.hcc.toNat
  | .snc => .num s.cfg.snc.toNat
  | .srch => .num s.cfg.srch.toNat
  | .sud => .num s.cfg.sud.toNat
  | .ssl => .num s.cfg.ssl.toNat
  | .addr => .num s.cfg.addr.toNat
  | .rdy => .num s.status.rdy.toNat
  | .obsf => .num s.status.obsf.toInt
  | .stdet => .num s.status.stdet.toNat
  | .lev => .num s.status.lev.toNat
  | .stvalid => .num s.stvalid.toNat
  | .lc => .lifecycle s.lc

/-- A read through the observation port (R40), with the faults of R111. It reads and changes nothing. -/
def observe (r : RegName) (s : State) : Except Fault ObsValue :=
  match r.file with
  | .bookkeeping => .ok (regValue s r)
  | .config => if s.lc = .unconstructed then .error .obsNotConstructed else .ok (regValue s r)
  | .status =>
    if s.lc = .unconstructed ∨ s.stvalid = 0#1 then .error .obsStatusNotValid else .ok (regValue s r)

/-- The number of a response (R106). -/
def responseCode : Response → Nat
  | .ok => 0
  | .illegal .opcode _ => 1
  | .illegal .reservedBits _ => 2
  | .illegal .notConstructed _ => 3
  | .illegal .alreadyConstructed _ => 4
  | .transport .write _ => 5
  | .transport .read _ => 6

/-- The next thing the host does is to issue the table word `w` of `nbits` bits. -/
def pushTableWord (s : State) (nbits w : Nat) : State :=
  s.withInputs (.command (commandOfTableWord nbits w) :: s.inputs)

end Sys2Proof.Machine
end

