-- ==== Sys2Proof/Machine/Sync.lean ====
section
/-! DEFINITION. SYNC (41_sync_encode.md rules R81 to R92), the core of every command, and the lifecycle check of
command acceptance (40_commands.md rule R73). -/

namespace Sys2Proof.Machine

/-- SYNC step 1 (R82, R83): coerce the band, then clamp the frequency into it. -/
def syncStep1 (fin : Int) (c : ConfigFile) : ConfigFile :=
  let band := coerceBand c.band
  { c with band := band, f := BitVec.ofInt 32 (clampToBand fin band) }

/-- SYNC step 5 after the settle (R91): the read, and DECODE where it succeeds. -/
def syncRead (s : State) : Response × State :=
  let read := memRead s.cfg.addr s
  match read.1 with
  | .err e => (.transport .read e, read.2)
  | .ok buf => (.ok, decodeInto buf read.2)

/-- SYNC steps 2 to 5 (R84 to R91): the image, the write, and on `Ok` the settle and the read. -/
def syncBus (s : State) : Response × State :=
  let write := memWrite s.cfg.addr (writeImage s.params s.cfg) s
  match write.1 with
  | .err e => (.transport .write e, write.2)
  | .ok => syncRead (settle write.2)

/-- SYNC (R81). No register write is undone when it fails (R92). -/
def sync (fin : Int) (s : State) : Response × State := syncBus (s.withCfg (syncStep1 fin s.cfg))

/-- Ends a command with the response SYNC returned (R103). -/
def finish (result : Response × State) : State := result.2.respond result.1

/-- Runs a command that needs a constructed instance: `ILLEGAL_NOT_CONSTRUCTED` while `LC = UNCONSTRUCTED`
(R73), else its body's response. The command word of a decoded instruction is its encoding (log 11: a word means
one instruction). -/
def whenReady (i : Instr) (body : State → Response × State) (s : State) : State :=
  match s.lc with
  | .unconstructed => raiseIllegal .notConstructed (encode i) s
  | .ready => finish (body s)

end Sys2Proof.Machine
end

