-- ==== Sys2Proof/Machine/Construct.lean ====
section
/-! DEFINITION. INIT, the construction of the device instance (40_commands.md rule R74). -/

namespace Sys2Proof.Machine

/-- The configuration INIT writes before its SYNC (R74): the operands as given, and the values of decision D9. -/
def initConfig (a7 : DevAddr) (imm : Int) (bnd : BitVec 2) (st sm nc hc : Bit) : ConfigFile :=
  { addr := a7, f := BitVec.ofInt 32 imm, band := bnd, stereo := st, smute := sm, snc := nc, hcc := hc,
    mute := 0#1, stby := 0#1, srch := 0#1, sud := 1#1, ssl := 0b10#2 }

/-- INIT runs SYNC unless `SKIP_INITIAL_SYNC_WHEN_ZERO` and `imm ≤ 0` (R15, R74). -/
def initSkipsSync (p : Params) (imm : Int) : Bool := p.skipInitialSyncWhenZero && imm ≤ 0

/-- The end of INIT (R74): `LC` is READY after `OK`, UNCONSTRUCTED after a failing SYNC. -/
def initFinish (result : Response × State) : State :=
  match result.1 with
  | .ok => (result.2.withLc .ready).respond .ok
  | r => (result.2.withLc .unconstructed).respond r

/-- INIT's own effect, on an unconstructed block (R74). -/
def initRun (imm : Int) (c : ConfigFile) (s : State) : State :=
  let s1 := (s.withCfg c).withStvalid 0#1
  if initSkipsSync s.params imm then (s1.withLc .ready).respond .ok else initFinish (sync imm s1)

/-- INIT (R74); `ILLEGAL_ALREADY_CONSTRUCTED` while `LC = READY` (R73). -/
def execInit (a7 : DevAddr) (imm : Int) (bnd : BitVec 2) (st sm nc hc : Bit) (s : State) :
    Host.Outcome State Fault Refusal :=
  .next (match s.lc with
    | .ready => raiseIllegal .alreadyConstructed (encode (.init a7 imm bnd st sm nc hc)) s
    | .unconstructed => initRun imm (initConfig a7 imm bnd st sm nc hc) s)

end Sys2Proof.Machine
end

