-- ==== Sys2Proof/Machine/Search.lean ====
section
/-! DEFINITION. SRCH, the search command (40_commands.md rules R77 and R78). -/

namespace Sys2Proof.Machine

/-- What SRCH writes before its SYNC (R77): `SRCH`, `SUD` and the snapped threshold. -/
def srchConfig (en dir : Bit) (imm : Int) (c : ConfigFile) : ConfigFile :=
  { c with srch := en, sud := dir, ssl := snap imm }

/-- SRCH (R77): the search parameters, then `SYNC(F)`. -/
def execSrch (en dir : Bit) (imm : Int) (s : State) : Host.Outcome State Fault Refusal :=
  .next (whenReady (.srch en dir imm) (fun s => sync s.cfg.f.toInt (s.withCfg (srchConfig en dir imm s.cfg))) s)

end Sys2Proof.Machine
end

