-- ==== Sys2Proof/Machine/Switch.lean ====
section
/-! DEFINITION. MUTE and STBY, the switch commands (40_commands.md rules R79 and R80). -/

namespace Sys2Proof.Machine

/-- What MUTE writes before its SYNC (R79). -/
def muteConfig (en : Bit) (c : ConfigFile) : ConfigFile := { c with mute := en }

/-- MUTE (R79): the flag, then `SYNC(F)`. -/
def execMute (en : Bit) (s : State) : Host.Outcome State Fault Refusal :=
  .next (whenReady (.mute en) (fun s => sync s.cfg.f.toInt (s.withCfg (muteConfig en s.cfg))) s)

/-- What STBY writes before its SYNC (R80). -/
def stbyConfig (en : Bit) (c : ConfigFile) : ConfigFile := { c with stby := en }

/-- STBY (R80): the flag, then `SYNC(F)`; the block itself keeps running (60_exceptions.md rule R117). -/
def execStby (en : Bit) (s : State) : Host.Outcome State Fault Refusal :=
  .next (whenReady (.stby en) (fun s => sync s.cfg.f.toInt (s.withCfg (stbyConfig en s.cfg))) s)

end Sys2Proof.Machine
end

