-- ==== Sys2Proof/Machine/Tune.lean ====
section
/-! DEFINITION. SETF and CHGF, the tuning commands (40_commands.md rules R75 and R76). -/

namespace Sys2Proof.Machine

/-- SETF (R75): `SYNC(imm)`; step 1 of SYNC clamps. -/
def execSetf (imm : Int) (s : State) : Host.Outcome State Fault Refusal :=
  .next (whenReady (.setf imm) (sync imm) s)

/-- What CHGF writes before its SYNC (R76): `SUD <- bit(imm >= 0)`. -/
def chgfConfig (imm : Int) (c : ConfigFile) : ConfigFile := { c with sud := bit (0 ≤ imm) }

/-- CHGF (R76): the exact sum `F + imm`, the direction, then SYNC of the sum. -/
def execChgf (imm : Int) (s : State) : Host.Outcome State Fault Refusal :=
  .next (whenReady (.chgf imm) (fun s => sync (s.cfg.f.toInt + imm) (s.withCfg (chgfConfig imm s.cfg))) s)

end Sys2Proof.Machine
end

