-- ==== Sys2Proof/Machine/Dispatch.lean ====
section
/-! DEFINITION. One arm per command (spec/opcode_table.json). -/

namespace Sys2Proof.Machine

def exec (i : Instr) (s : State) : Host.Outcome State Fault Refusal :=
  match i with
  | .init a7 imm bnd st sm nc hc => Sys2Proof.Machine.execInit a7 imm bnd st sm nc hc s
  | .setf imm => Sys2Proof.Machine.execSetf imm s
  | .chgf imm => Sys2Proof.Machine.execChgf imm s
  | .srch en dir imm => Sys2Proof.Machine.execSrch en dir imm s
  | .mute en => Sys2Proof.Machine.execMute en s
  | .stby en => Sys2Proof.Machine.execStby en s

end Sys2Proof.Machine
end

