-- ==== Sys2Proof/Machine/Step.lean ====
section
/-! DEFINITION. One step: the block takes the next thing the host does and finishes it (10_state.md rule R20,
40_commands.md rule R73). -/

namespace Sys2Proof.Machine

/-- A command word is decoded and run, or answered `ILLEGAL` (R72, R73); a reset resets (R118); with nothing
asked, the block is idle. -/
def step (s : State) : Host.Outcome State Fault Refusal :=
  match s.inputs with
  | [] => .next (idle s)
  | .reset :: rest => .next (hardwareReset (s.withInputs rest))
  | .command cmd :: rest =>
    match decode cmd with
    | .error cause => .next (raiseIllegal cause cmd (s.withInputs rest))
    | .ok i => exec i (s.withInputs rest)

/-- `s` with the table word `w` of `nbits` bits as the next thing on the command port: the host issues commands
from outside the block (R20), so a program comes to run by standing in `inputs` (log 2). -/
def State.withFetchWord (s : State) (nbits w : Nat) : State := pushTableWord s nbits w

end Sys2Proof.Machine
end

