-- ==== Sys2Proof/Machine/Assembler.lean ====
section
/-! DEFINITION. The assembler syntax and its pseudo-forms (30_encoding.md rules R70 and R71): one line of text to
one command word. It is no part of the block; it says which words the spec's listings stand for. -/

namespace Sys2Proof.Machine

/-- The operand names of R70. -/
inductive AsmName where
  | us | jp | b2 | b3 | up | down
deriving DecidableEq, Repr

/-- An operand as written: an integer or a name. -/
inductive AsmArg where
  | int (v : Int)
  | name (n : AsmName)
deriving DecidableEq, Repr

/-- A line: a mnemonic and its operands. -/
structure AsmLine where
  op : Opcode
  args : List AsmArg
deriving DecidableEq, Repr

/-- An integer as an unsigned field of `n` bits; out of range is an assembly error (R70). -/
def asmUnsigned (n : Nat) (v : Int) : Option (BitVec n) :=
  if 0 ≤ v ∧ v < 2 ^ n then some (BitVec.ofInt n v) else none

/-- An address operand (`A7`). -/
def asmAddr : AsmArg → Option DevAddr
  | .int v => asmUnsigned 7 v
  | .name _ => none

/-- An immediate operand (`IMM`, R68); out of range is an assembly error (R70). -/
def asmImm : AsmArg → Option Int
  | .int v => if immInRange v then some v else none
  | .name _ => none

/-- A flag operand, `0` or `1` (R70). -/
def asmFlag : AsmArg → Option Bit
  | .int v => asmUnsigned 1 v
  | .name _ => none

/-- A band operand: `US`, `JP`, `B2`, `B3` or 0..3 (R69, R70). -/
def asmBand : AsmArg → Option (BitVec 2)
  | .int v => asmUnsigned 2 v
  | .name .us => some 0b00#2
  | .name .jp => some 0b01#2
  | .name .b2 => some 0b10#2
  | .name .b3 => some 0b11#2
  | .name .up => none
  | .name .down => none

/-- A direction operand: `UP` (1) or `DOWN` (0) (R70). -/
def asmDir : AsmArg → Option Bit
  | .name .up => some 1#1
  | .name .down => some 0#1
  | .name .us => none
  | .name .jp => none
  | .name .b2 => none
  | .name .b3 => none
  | .int _ => none

/-- The pseudo-forms of R71; any other line stands for itself. -/
def asmExpand (l : AsmLine) : AsmLine :=
  match l.op, l.args with
  | .init, [freq, band, stereo, smute, snc, hcc] =>
    { l with args := [.int 0x60, freq, band, stereo, smute, snc, hcc] }
  | .srch, [en] => { l with args := [en, .name .up, .int 7] }
  | .srch, [en, dir] => { l with args := [en, dir, .int 7] }
  | _, _ => l

/-- A line in the full syntax of R70; `none` is an assembly error. -/
def assembleFull (l : AsmLine) : Option Instr :=
  match l.op, l.args with
  | .init, [addr, freq, band, stereo, smute, snc, hcc] => do
    let a7 ← asmAddr addr
    let imm ← asmImm freq
    let bnd ← asmBand band
    let st ← asmFlag stereo
    let sm ← asmFlag smute
    let nc ← asmFlag snc
    let hc ← asmFlag hcc
    return .init a7 imm bnd st sm nc hc
  | .setf, [freq] => do return .setf (← asmImm freq)
  | .chgf, [delta] => do return .chgf (← asmImm delta)
  | .srch, [en, dir, adc] => do return .srch (← asmFlag en) (← asmDir dir) (← asmImm adc)
  | .mute, [en] => do return .mute (← asmFlag en)
  | .stby, [en] => do return .stby (← asmFlag en)
  | _, _ => none

/-- A line, pseudo-form or not (R70, R71). -/
def assemble (l : AsmLine) : Option Instr := assembleFull (asmExpand l)

/-- DESIGN CHOICE (log 8): a space, a tab or a carriage return separates and may surround operands. -/
def asmBlank (c : Char) : Bool := c = ' ' || c = '\t' || c = '\r'

/-- A piece of text without the blanks around it. -/
def asmTrim (cs : List Char) : List Char :=
  ((cs.dropWhile asmBlank).reverse.dropWhile asmBlank).reverse

/-- The text before a `;` comment (R70). -/
def asmCode (cs : List Char) : List Char := cs.takeWhile (fun c => c ≠ ';')

/-- The pieces between commas (R70). -/
def asmSplit : List Char → List (List Char)
  | [] => [[]]
  | c :: cs =>
    if c = ',' then [] :: asmSplit cs
    else
      match asmSplit cs with
      | [] => [[c]]
      | w :: ws => (c :: w) :: ws

/-- The value of a digit below `base` (DESIGN CHOICE: hexadecimal letters of either case, log 8). -/
def asmDigit (base : Nat) (c : Char) : Option Nat :=
  let v :=
    if '0'.toNat ≤ c.toNat ∧ c.toNat ≤ '9'.toNat then c.toNat - '0'.toNat
    else if 'a'.toNat ≤ c.toNat ∧ c.toNat ≤ 'f'.toNat then c.toNat - 'a'.toNat + 10
    else if 'A'.toNat ≤ c.toNat ∧ c.toNat ≤ 'F'.toNat then c.toNat - 'A'.toNat + 10
    else base
  if v < base then some v else none

/-- Digits, the value so far in front. -/
def asmDigits (base : Nat) : Nat → List Char → Option Nat
  | acc, [] => some acc
  | acc, c :: cs => do asmDigits base (acc * base + (← asmDigit base c)) cs

/-- A nonempty run of digits. -/
def asmNat (base : Nat) (cs : List Char) : Option Nat := if cs.isEmpty then none else asmDigits base 0 cs

/-- An integer: decimal, optionally signed, or hexadecimal with the `0x` prefix (R70). -/
def asmInt : List Char → Option Int
  | '0' :: 'x' :: cs => (asmNat 16 cs).map Int.ofNat
  | '-' :: cs => (asmNat 10 cs).map (fun v => - Int.ofNat v)
  | '+' :: cs => (asmNat 10 cs).map Int.ofNat
  | cs => (asmNat 10 cs).map Int.ofNat

/-- An operand name of R70. -/
def asmName (cs : List Char) : Option AsmName :=
  if cs = ['U', 'S'] then some .us
  else if cs = ['J', 'P'] then some .jp
  else if cs = ['B', '2'] then some .b2
  else if cs = ['B', '3'] then some .b3
  else if cs = ['U', 'P'] then some .up
  else if cs = ['D', 'O', 'W', 'N'] then some .down
  else none

/-- One operand. -/
def asmArg (cs : List Char) : Option AsmArg :=
  match asmName cs with
  | some n => some (.name n)
  | none => (asmInt cs).map .int

/-- The operands, each without its blanks. -/
def asmArgs : List (List Char) → Option (List AsmArg)
  | [] => some []
  | w :: ws => do return (← asmArg (asmTrim w)) :: (← asmArgs ws)

/-- A mnemonic of R66, in capitals (DESIGN CHOICE, log 8). -/
def asmMnemonic (cs : List Char) : Option Opcode :=
  if cs = ['I', 'N', 'I', 'T'] then some .init
  else if cs = ['S', 'E', 'T', 'F'] then some .setf
  else if cs = ['C', 'H', 'G', 'F'] then some .chgf
  else if cs = ['S', 'R', 'C', 'H'] then some .srch
  else if cs = ['M', 'U', 'T', 'E'] then some .mute
  else if cs = ['S', 'T', 'B', 'Y'] then some .stby
  else none

/-- A line of text that holds a command. -/
def asmParse (body : List Char) : Option AsmLine := do
  let mnemonic := body.takeWhile (fun c => !asmBlank c)
  let rest := asmTrim (body.drop mnemonic.length)
  let op ← asmMnemonic mnemonic
  let args ← if rest.isEmpty then some [] else asmArgs (asmSplit rest)
  return { op := op, args := args }

/-- One line of source text: `none` an assembly error, `some none` a line that holds no command, else the
command word (R70, R71). -/
def assembleText (line : List Char) : Option (Option Command) :=
  let body := asmTrim (asmCode line)
  if body.isEmpty then some none
  else do return some (encode (← assemble (← asmParse body)))

end Sys2Proof.Machine
end

