-- ==== Sys2Proof/Safety.lean ====
section
/-! DEFINITION. What a claim about a run may speak of: when a command is accepted and when it runs SYNC, what it
asks SYNC for, the invariants of the registers and of the bus history, and what the host can see. -/

namespace Sys2Proof.Machine

/-- The lifecycle check of command acceptance (40_commands.md rule R73): INIT while UNCONSTRUCTED, any other
command while READY. -/
def accepted : Instr → State → Bool
  | .init _ _ _ _ _ _ _, s => s.lc = .unconstructed
  | .setf _, s => s.lc = .ready
  | .chgf _, s => s.lc = .ready
  | .srch _ _ _, s => s.lc = .ready
  | .mute _, s => s.lc = .ready
  | .stby _, s => s.lc = .ready

/-- The one case in which an accepted command makes no SYNC (R15, R74). -/
def skipsSync : Instr → State → Bool
  | .init _ imm _ _ _ _ _, s => s.params.skipInitialSyncWhenZero && imm ≤ 0
  | .setf _, _ => false
  | .chgf _, _ => false
  | .srch _ _ _, _ => false
  | .mute _, _ => false
  | .stby _, _ => false

/-- An accepted command that runs SYNC. -/
def runsSync (i : Instr) (s : State) : Bool := accepted i s && !skipsSync i s

/-- The band a command's SYNC starts from: INIT's operand, else the register. -/
def requestedBand : Instr → ConfigFile → BitVec 2
  | .init _ _ bnd _ _ _ _, _ => bnd
  | .setf _, c => c.band
  | .chgf _, c => c.band
  | .srch _ _ _, c => c.band
  | .mute _, c => c.band
  | .stby _, c => c.band

/-- `fin`, by the caller table of R81. -/
def requestedFreq : Instr → ConfigFile → Int
  | .init _ imm _ _ _ _ _, _ => imm
  | .setf imm, _ => imm
  | .chgf imm, c => c.f.toInt + imm
  | .srch _ _ _, c => c.f.toInt
  | .mute _, c => c.f.toInt
  | .stby _, c => c.f.toInt

/-- What SYNC step 1 leaves of a configuration and a pre-clamp frequency, in the numbers of R82 and R83. -/
def bandClamped (fin : Int) (c : ConfigFile) : ConfigFile :=
  if c.band = 0b01#2 then { c with f := BitVec.ofInt 32 (max 76000 (min 91000 fin)) }
  else { c with band := 0b00#2, f := BitVec.ofInt 32 (max 87500 (min 108000 fin)) }

/-- The bits a well-formed word of an opcode has at zero (30_encoding.md rule R67, last column). -/
def mustBeZero (op : BitVec 4) : Command :=
  if op = 0x1#4 then 0x0FFF800300000000#64
  else if op = 0x2#4 ∨ op = 0x3#4 then 0x0FFFFFFF00000000#64
  else if op = 0x4#4 then 0x0FFFFFFC00000000#64
  else 0x0FFFFFFEFFFFFFFF#64

/-- What a command that ran SYNC leaves outside its own configuration writes and `LC`: the parameters and the
host's further inputs as they were, one more response that is no `ILLEGAL`, the history only longer, and the
status either as it was with `STVALID = stv`, or decoded whole from the read that ends the history. -/
def SyncFrame (s t : State) (stv : Bit) : Prop :=
  t.params = s.params ∧ t.inputs = s.inputs ∧
  (∃ r : Response, r.isIllegal = false ∧ t.responses = s.responses ++ [r]) ∧
  (∃ events, t.history = s.history ++ events) ∧
  ((t.status = s.status ∧ t.stvalid = stv) ∨
    ∃ buf, t.history.getLast? = some (.busReadEv t.cfg.addr (.ok buf)) ∧ t.status = decodeStatus buf ∧
      t.stvalid = 1#1)

/-- A read image with any of its ignored bits, B0[6], B2[6:0], B3[3:0] and B4, changed (42_status_decode.md rule
R102). -/
def changeIgnored (buf : Image) (y0 y2 y3 y4 : Byte) : Image :=
  { b0 := buf.b0 ^^^ (y0 &&& 0x40#8), b1 := buf.b1, b2 := buf.b2 ^^^ (y2 &&& 0x7F#8),
    b3 := buf.b3 ^^^ (y3 &&& 0x0F#8), b4 := y4 }

/-- The band invariant's three lines (10_state.md rule R39). -/
abbrev InBand (c : ConfigFile) : Prop :=
  (c.band = 0b01#2 ∧ 76000 ≤ c.f.toInt ∧ c.f.toInt ≤ 91000) ∨
  (c.band = 0b00#2 ∧ 87500 ≤ c.f.toInt ∧ c.f.toInt ≤ 108000)

/-- A constructed block is in band, unless its INIT skipped SYNC and no read has succeeded since. -/
abbrev BandHeld (s : State) : Prop :=
  s.lc = .ready → (s.params.skipInitialSyncWhenZero = false ∨ s.stvalid = 1#1) → InBand s.cfg

/-- Without an instance no status is valid (R74, R118). -/
abbrev LifecycleHeld (s : State) : Prop := s.lc = .unconstructed → s.stvalid = 0#1

/-- The bytes of the last successful read in a history. -/
def lastOkRead : List BusEvent → Option Image
  | [] => none
  | e :: rest =>
    match lastOkRead rest with
    | some buf => some buf
    | none =>
      match e with
      | .busReadEv _ (.ok buf) => some buf
      | .busReadEv _ (.err _) => none
      | .busWriteEv _ _ _ => none
      | .settleEv _ => none

/-- Valid status is the decoded last successful read, all four registers of it (R91, R101, R122). -/
abbrev StatusFresh (s : State) : Prop :=
  s.stvalid = 1#1 → (lastOkRead s.history).map decodeStatus = some s.status

/-- Whether an event is one R43 or R44 names: the settle event is the model's (log 4). -/
def isAccess : BusEvent → Bool
  | .busWriteEv _ _ _ => true
  | .busReadEv _ _ => true
  | .settleEv _ => false

/-- The write and read events of a history. -/
def busAccesses (h : List BusEvent) : List BusEvent := h.filter isAccess

/-- The order of the bus history (R52, R53): one failed write, or a write, the settle and a read of the same
device, over and over. -/
def historyOrdered : List BusEvent → Bool
  | [] => true
  | .busWriteEv _ _ (.err _) :: rest => historyOrdered rest
  | .busWriteEv a _ .ok :: .settleEv _ :: .busReadEv b _ :: rest => a = b && historyOrdered rest
  | .busWriteEv _ _ .ok :: _ => false
  | .settleEv _ :: _ => false
  | .busReadEv _ _ :: _ => false

/-- Two states that differ at most in registers that hold no value (R118): equal but for the configuration while
UNCONSTRUCTED, and the status while UNCONSTRUCTED or STVALID = 0. -/
def SameButUnset (s t : State) : Prop :=
  s.lc = t.lc ∧ s.stvalid = t.stvalid ∧ s.params = t.params ∧ s.inputs = t.inputs ∧
  s.responses = t.responses ∧ s.history = t.history ∧ s.writeAnswers = t.writeAnswers ∧
  s.readAnswers = t.readAnswers ∧ s.draws = t.draws ∧
  (s.lc = .ready → s.cfg = t.cfg) ∧ (s.lc = .ready → s.stvalid = 1#1 → s.status = t.status)

end Sys2Proof.Machine
end

