-- ==== Sys2Proof/Certificates/Slice0/Obligations.lean ====
section
/-! DEFINITION. The statements for the provers. Each docstring names the rule of spec/ it formalises. -/

open Sys2Proof Sys2Proof.Machine

/-- Decode and encode agree (30_encoding.md section 4): every operand of every command, at every value its
field admits, comes back. -/
def Obligations.DecodeOfEncode : Prop :=
  ∀ i : Instr, i.WellFormed → decode (encode i) = .ok i

/-- The other direction (30_encoding.md section 4): a legal word means one instruction, which is well formed, and
no bit of the word is dropped. -/
def Obligations.EncodeOfDecode : Prop :=
  ∀ (cmd : Command) (i : Instr), decode cmd = .ok i → i.WellFormed ∧ encode i = cmd

/-- R67: a word is well formed exactly when it agrees with a row's match under the row's mask, and then every
operand field of the row is read where R65 puts it. -/
def Obligations.DecoderReadsTheTable : Prop :=
  ∀ cmd : Command,
    (cmd &&& 0xFFFF800300000000#64 = 0x1000000000000000#64 →
      decode cmd = .ok (.init (cmd.extractLsb' 40 7) (cmd.extractLsb' 0 32).toInt (cmd.extractLsb' 38 2)
        (cmd.extractLsb' 34 1) (cmd.extractLsb' 35 1) (cmd.extractLsb' 36 1) (cmd.extractLsb' 37 1))) ∧
    (cmd &&& 0xFFFFFFFF00000000#64 = 0x2000000000000000#64 →
      decode cmd = .ok (.setf (cmd.extractLsb' 0 32).toInt)) ∧
    (cmd &&& 0xFFFFFFFF00000000#64 = 0x3000000000000000#64 →
      decode cmd = .ok (.chgf (cmd.extractLsb' 0 32).toInt)) ∧
    (cmd &&& 0xFFFFFFFC00000000#64 = 0x4000000000000000#64 →
      decode cmd = .ok (.srch (cmd.extractLsb' 32 1) (cmd.extractLsb' 33 1) (cmd.extractLsb' 0 32).toInt)) ∧
    (cmd &&& 0xFFFFFFFEFFFFFFFF#64 = 0x5000000000000000#64 →
      decode cmd = .ok (.mute (cmd.extractLsb' 32 1))) ∧
    (cmd &&& 0xFFFFFFFEFFFFFFFF#64 = 0x6000000000000000#64 →
      decode cmd = .ok (.stby (cmd.extractLsb' 32 1))) ∧
    (cmd &&& 0xFFFF800300000000#64 ≠ 0x1000000000000000#64 →
      cmd &&& 0xFFFFFFFF00000000#64 ≠ 0x2000000000000000#64 →
      cmd &&& 0xFFFFFFFF00000000#64 ≠ 0x3000000000000000#64 →
      cmd &&& 0xFFFFFFFC00000000#64 ≠ 0x4000000000000000#64 →
      cmd &&& 0xFFFFFFFEFFFFFFFF#64 ≠ 0x5000000000000000#64 →
      cmd &&& 0xFFFFFFFEFFFFFFFF#64 ≠ 0x6000000000000000#64 → ∃ cause, decode cmd = .error cause)

/-- The illegal words of 30_encoding.md section 6, by cause: a reserved opcode whatever the other bits, then a
must-be-zero bit that is 1, and no other word is illegal. -/
def Obligations.IllegalWordsByCause : Prop :=
  ∀ cmd : Command,
    (decode cmd = .error .opcode ↔ cmd.extractLsb' 60 4 = 0x0#4 ∨ 0x7#4 ≤ cmd.extractLsb' 60 4) ∧
    (decode cmd = .error .reservedBits ↔
      0x1#4 ≤ cmd.extractLsb' 60 4 ∧ cmd.extractLsb' 60 4 ≤ 0x6#4 ∧
      cmd &&& mustBeZero (cmd.extractLsb' 60 4) ≠ 0#64) ∧
    decode cmd ≠ .error .notConstructed ∧ decode cmd ≠ .error .alreadyConstructed

/-- Words of 95_test_vectors.md section L2.5, one of each command, decode to the command beside them. -/
def Obligations.SampleWordsDecode : Prop :=
  decode 0x1000607C00015F90#64 = .ok (.init 0x60#7 90000 0b01#2 1#1 1#1 1#1 1#1) ∧
  decode 0x1000604400015F90#64 = .ok (.init 0x60#7 90000 0b01#2 1#1 0#1 0#1 0#1) ∧
  decode 0x2000000080000000#64 = .ok (.setf (-2147483648)) ∧
  decode 0x30000000FFFFFF9C#64 = .ok (.chgf (-100)) ∧
  decode 0x4000000100000006#64 = .ok (.srch 1#1 0#1 6) ∧
  decode 0x40000002FFFFFFFF#64 = .ok (.srch 0#1 1#1 (-1)) ∧
  decode 0x5000000100000000#64 = .ok (.mute 1#1) ∧
  decode 0x6000000100000000#64 = .ok (.stby 1#1)

/-- R71: the three pseudo-forms expand as the table says, and every other line stands for itself. -/
def Obligations.PseudoFormsExpand : Prop :=
  (∀ freq band stereo smute snc hcc : AsmArg,
    assemble ⟨.init, [freq, band, stereo, smute, snc, hcc]⟩ =
      assembleFull ⟨.init, [.int 0x60, freq, band, stereo, smute, snc, hcc]⟩) ∧
  (∀ en : AsmArg, assemble ⟨.srch, [en]⟩ = assembleFull ⟨.srch, [en, .name .up, .int 7]⟩) ∧
  (∀ en dir : AsmArg, assemble ⟨.srch, [en, dir]⟩ = assembleFull ⟨.srch, [en, dir, .int 7]⟩) ∧
  (∀ l : AsmLine, ¬ (l.op = .init ∧ l.args.length = 6) → ¬ (l.op = .srch ∧ l.args.length ∈ [1, 2]) →
    assemble l = assembleFull l)

/-- The assembler of 30_encoding.md section 5 never truncates: an INIT line of integers assembles exactly when
every operand is in its field's range, and then to those very values. -/
def Obligations.InitLineAssemblesInRange : Prop :=
  ∀ (addr freq band stereo smute snc hcc : Int) (i : Instr),
    assemble ⟨.init, [.int addr, .int freq, .int band, .int stereo, .int smute, .int snc, .int hcc]⟩ = some i ↔
      (0 ≤ addr ∧ addr ≤ 127) ∧ (-2147483648 ≤ freq ∧ freq ≤ 2147483647) ∧ (0 ≤ band ∧ band ≤ 3) ∧
      (stereo = 0 ∨ stereo = 1) ∧ (smute = 0 ∨ smute = 1) ∧ (snc = 0 ∨ snc = 1) ∧ (hcc = 0 ∨ hcc = 1) ∧
      ∃ a7 bnd st sm nc hc, i = .init a7 freq bnd st sm nc hc ∧ (a7.toNat : Int) = addr ∧
        (bnd.toNat : Int) = band ∧ (st.toNat : Int) = stereo ∧ (sm.toNat : Int) = smute ∧
        (nc.toNat : Int) = snc ∧ (hc.toNat : Int) = hcc

/-- R70's and R69's operand names (30_encoding.md sections 4 and 5): the band names are the integers 0 to 3, UP is
1 and DOWN is 0; a direction is no integer, a band is no direction name and a direction no band name, and no other
operand of any command is a name. -/
def Obligations.OperandNamesHaveTheirCodes : Prop :=
  (∀ addr freq stereo smute snc hcc : AsmArg,
    let line := fun band => assemble ⟨.init, [addr, freq, band, stereo, smute, snc, hcc]⟩
    line (.name .us) = line (.int 0) ∧ line (.name .jp) = line (.int 1) ∧ line (.name .b2) = line (.int 2) ∧
    line (.name .b3) = line (.int 3) ∧ line (.name .up) = none ∧ line (.name .down) = none) ∧
  (∀ (en imm : Int) (i : Instr),
    (assemble ⟨.srch, [.int en, .name .up, .int imm]⟩ = some i ↔
      (en = 0 ∨ en = 1) ∧ (-2147483648 ≤ imm ∧ imm ≤ 2147483647) ∧
      ∃ e : Bit, (e.toNat : Int) = en ∧ i = .srch e 1#1 imm) ∧
    (assemble ⟨.srch, [.int en, .name .down, .int imm]⟩ = some i ↔
      (en = 0 ∨ en = 1) ∧ (-2147483648 ≤ imm ∧ imm ≤ 2147483647) ∧
      ∃ e : Bit, (e.toNat : Int) = en ∧ i = .srch e 0#1 imm)) ∧
  (∀ (en adc : AsmArg) (v : Int), assemble ⟨.srch, [en, .int v, adc]⟩ = none) ∧
  (∀ (en adc : AsmArg) (n : AsmName), n ∈ [.us, .jp, .b2, .b3] → assemble ⟨.srch, [en, .name n, adc]⟩ = none) ∧
  (∀ (n : AsmName) (a b c d e f : AsmArg),
    assemble ⟨.init, [.name n, a, b, c, d, e, f]⟩ = none ∧ assemble ⟨.init, [a, .name n, b, c, d, e, f]⟩ = none ∧
    assemble ⟨.init, [a, b, c, .name n, d, e, f]⟩ = none ∧ assemble ⟨.init, [a, b, c, d, .name n, e, f]⟩ = none ∧
    assemble ⟨.init, [a, b, c, d, e, .name n, f]⟩ = none ∧ assemble ⟨.init, [a, b, c, d, e, f, .name n]⟩ = none ∧
    assemble ⟨.srch, [.name n, a, b]⟩ = none ∧ assemble ⟨.srch, [a, b, .name n]⟩ = none ∧
    ∀ op ∈ [Opcode.setf, .chgf, .mute, .stby], assemble ⟨op, [.name n]⟩ = none)

/-- The one-operand lines of 30_encoding.md section 5 assemble exactly when the operand is in its field's range, and
to that very value, and no line assembles with another count of operands than a form of its mnemonic has. (INIT's
integer line is `InitLineAssemblesInRange`, SRCH's lines are `OperandNamesHaveTheirCodes`.) -/
def Obligations.LinesAssembleInRange : Prop :=
  (∀ (v : Int) (i : Instr),
    (assemble ⟨.setf, [.int v]⟩ = some i ↔ (-2147483648 ≤ v ∧ v ≤ 2147483647) ∧ i = .setf v) ∧
    (assemble ⟨.chgf, [.int v]⟩ = some i ↔ (-2147483648 ≤ v ∧ v ≤ 2147483647) ∧ i = .chgf v) ∧
    (assemble ⟨.mute, [.int v]⟩ = some i ↔ (v = 0 ∧ i = .mute 0#1) ∨ (v = 1 ∧ i = .mute 1#1)) ∧
    (assemble ⟨.stby, [.int v]⟩ = some i ↔ (v = 0 ∧ i = .stby 0#1) ∨ (v = 1 ∧ i = .stby 1#1))) ∧
  (∀ (l : AsmLine) (i : Instr), assemble l = some i →
    i.opcode = l.op ∧
    (l.op = .init → l.args.length = 6 ∨ l.args.length = 7) ∧
    (l.op = .srch → l.args.length = 1 ∨ l.args.length = 2 ∨ l.args.length = 3) ∧
    (l.op ≠ .init → l.op ≠ .srch → l.args.length = 1))

/-- Lines of text of 95_test_vectors.md section L2.5 assemble to the words beside them: every mnemonic and every
operand name as it is written. -/
def Obligations.SampleLinesAssemble : Prop :=
  assembleText "INIT 0x60, 106700, US, 1, 1, 1, 1".toList = some (some 0x1000603C0001A0CC#64) ∧
  assembleText "INIT 0x60, 90000, JP, 1, 0, 0, 0".toList = some (some 0x1000604400015F90#64) ∧
  assembleText "INIT 0x60, 98300, B2, 1, 0, 0, 0".toList = some (some 0x1000608400017FFC#64) ∧
  assembleText "INIT 0x60, 80000, B3, 1, 0, 0, 0".toList = some (some 0x100060C400013880#64) ∧
  assembleText "SETF -2147483648".toList = some (some 0x2000000080000000#64) ∧
  assembleText "CHGF -100".toList = some (some 0x30000000FFFFFF9C#64) ∧
  assembleText "SRCH 1, DOWN, 6".toList = some (some 0x4000000100000006#64) ∧
  assembleText "SRCH 0, UP, -1".toList = some (some 0x40000002FFFFFFFF#64) ∧
  assembleText "MUTE 1".toList = some (some 0x5000000100000000#64) ∧
  assembleText "STBY 1".toList = some (some 0x6000000100000000#64)

/-- Every line that assembles gives a legal word, which decodes to what the line says (30_encoding.md sections
4 and 5). -/
def Obligations.AssembledLinesDecode : Prop :=
  ∀ (l : AsmLine) (i : Instr), assemble l = some i → i.WellFormed ∧ decode (encode i) = .ok i

/-- A step runs the decoded instruction: where the command at the head of the port decodes to `i`, a step is
`exec i` with that command taken off the port (40_commands.md section 0). -/
def Obligations.StepRunsDecodedInstruction : Prop :=
  ∀ (s : State) (cmd : Command) (rest : List HostInput) (i : Instr),
    s.inputs = .command cmd :: rest → decode cmd = .ok i → step s = exec i { s with inputs := rest }

/-- R73: every command word goes through the three checks in order, each `ILLEGAL` recording the word; past them
the rule of the decoded command runs, and answers no `ILLEGAL`. -/
def Obligations.CommandAcceptance : Prop :=
  ∀ (s : State) (cmd : Command) (rest : List HostInput), s.inputs = .command cmd :: rest →
    (∀ cause, decode cmd = .error cause →
      step s = .next { s with inputs := rest, responses := s.responses ++ [.illegal cause cmd] }) ∧
    (∀ i, decode cmd = .ok i → i.isInit = true → s.lc = .ready →
      step s = .next { s with inputs := rest, responses := s.responses ++ [.illegal .alreadyConstructed cmd] }) ∧
    (∀ i, decode cmd = .ok i → i.isInit = false → s.lc = .unconstructed →
      step s = .next { s with inputs := rest, responses := s.responses ++ [.illegal .notConstructed cmd] }) ∧
    (∀ i, decode cmd = .ok i → (i.isInit = true ↔ s.lc = .unconstructed) →
      step s = exec i { s with inputs := rest } ∧
      ∃ t r, step s = .next t ∧ t.responses = s.responses ++ [r] ∧ r.isIllegal = false)

/-- A command the lifecycle turns away, at the level of `exec` (40_commands.md section 0): the response and
nothing else. That the response of `exec` records `encode i`, for an ill-formed instruction too, is the model's
choice (log 11): `exec` gets no word, and a step gives it only instructions whose encoding is the word. -/
def Obligations.LifecycleTurnsAway : Prop :=
  ∀ (i : Instr) (s : State),
    (i.isInit = true → s.lc = .ready →
      exec i s = .next { s with responses := s.responses ++ [.illegal .alreadyConstructed (encode i)] }) ∧
    (i.isInit = false → s.lc = .unconstructed →
      exec i s = .next { s with responses := s.responses ++ [.illegal .notConstructed (encode i)] })

/-- R103: one response for a command, none for anything else. -/
def Obligations.OneResponsePerCommand : Prop :=
  ∀ s : State,
    (∀ cmd rest, s.inputs = .command cmd :: rest →
      ∃ t r, step s = .next t ∧ t.responses = s.responses ++ [r] ∧ t.inputs = rest) ∧
    ((∀ cmd rest, s.inputs ≠ .command cmd :: rest) →
      ∃ t, step s = .next t ∧ t.responses = s.responses)

/-- No step faults or is refused (60_exceptions.md section 1: "no hardware exception is raised"). -/
def Obligations.EveryStepGoesOn : Prop :=
  ∀ s : State, ∃ t, step s = .next t

/-- R107: a command answered `ILLEGAL` leaves everything but the ports as it was. -/
def Obligations.IllegalResponseChangesNothing : Prop :=
  ∀ (s t : State) (cmd word : Command) (rest : List HostInput) (cause : IllegalCause),
    s.inputs = .command cmd :: rest → step s = .next t →
    t.responses = s.responses ++ [.illegal cause word] →
    t = { s with inputs := rest, responses := s.responses ++ [.illegal cause word] }

/-- R106 and R108: the number of the response of a command says which check failed, or which bus operation; an
`ILLEGAL` records the word and comes before any bus access, a `TRANSPORT` records the bus error verbatim. -/
def Obligations.ResponseCodeSaysWhatHappened : Prop :=
  ∀ (s : State) (cmd : Command) (rest : List HostInput), s.inputs = .command cmd :: rest →
    ∃ t r, step s = .next t ∧ t.responses = s.responses ++ [r] ∧ responseCode r ≤ 6 ∧
      (responseCode r = 1 ↔ cmd.extractLsb' 60 4 = 0x0#4 ∨ 0x7#4 ≤ cmd.extractLsb' 60 4) ∧
      (responseCode r = 2 ↔ 0x1#4 ≤ cmd.extractLsb' 60 4 ∧ cmd.extractLsb' 60 4 ≤ 0x6#4 ∧
        cmd &&& mustBeZero (cmd.extractLsb' 60 4) ≠ 0#64) ∧
      (responseCode r = 3 ↔ 0x2#4 ≤ cmd.extractLsb' 60 4 ∧ cmd.extractLsb' 60 4 ≤ 0x6#4 ∧
        cmd &&& mustBeZero (cmd.extractLsb' 60 4) = 0#64 ∧ s.lc = .unconstructed) ∧
      (responseCode r = 4 ↔ cmd.extractLsb' 60 4 = 0x1#4 ∧
        cmd &&& mustBeZero (cmd.extractLsb' 60 4) = 0#64 ∧ s.lc = .ready) ∧
      (1 ≤ responseCode r → responseCode r ≤ 4 → (∃ cause, r = .illegal cause cmd) ∧ t.history = s.history) ∧
      (responseCode r = 5 ↔ ∃ a img e, t.history = s.history ++ [.busWriteEv a img (.err e)] ∧
        r = .transport .write e) ∧
      (responseCode r = 6 ↔ ∃ a img b e,
        busAccesses t.history = busAccesses s.history ++ [.busWriteEv a img .ok, .busReadEv b (.err e)] ∧
        r = .transport .read e)

/-- R82: SYNC coerces the band first; codes other than JP clamp with the US range and pack as US. -/
def Obligations.BandCoercedBeforeClamp : Prop :=
  ∀ (i : Instr) (s : State), runsSync i s = true →
    ∃ t img r tail, exec i s = .next t ∧
      t.history = s.history ++ .busWriteEv t.cfg.addr img r :: tail ∧
      (requestedBand i s.cfg = 0b01#2 → t.cfg.band = 0b01#2 ∧ img.b3.getLsbD 5 = true) ∧
      (requestedBand i s.cfg ≠ 0b01#2 →
        t.cfg.band = 0b00#2 ∧ t.cfg.f.toInt = max 87500 (min 108000 (requestedFreq i s.cfg)) ∧
        img.b3.getLsbD 5 = false)

/-- R83: after SYNC step 1 `F` holds the requested frequency clamped to the band, both bounds inclusive, whatever
the bus does, and no out-of-band value is an error. -/
def Obligations.FrequencyClampedToBand : Prop :=
  ∀ (i : Instr) (s : State), runsSync i s = true →
    ∃ t r, exec i s = .next t ∧ t.responses = s.responses ++ [r] ∧ r.isIllegal = false ∧
      (t.cfg.band = 0b01#2 →
        (requestedFreq i s.cfg < 76000 → t.cfg.f.toInt = 76000) ∧
        (91000 < requestedFreq i s.cfg → t.cfg.f.toInt = 91000) ∧
        (76000 ≤ requestedFreq i s.cfg → requestedFreq i s.cfg ≤ 91000 →
          t.cfg.f.toInt = requestedFreq i s.cfg)) ∧
      (t.cfg.band = 0b00#2 →
        (requestedFreq i s.cfg < 87500 → t.cfg.f.toInt = 87500) ∧
        (108000 < requestedFreq i s.cfg → t.cfg.f.toInt = 108000) ∧
        (87500 ≤ requestedFreq i s.cfg → requestedFreq i s.cfg ≤ 108000 →
          t.cfg.f.toInt = requestedFreq i s.cfg)) ∧
      (t.cfg.band = 0b01#2 ∨ t.cfg.band = 0b00#2)

/-- R89 and R91: the three ways the bus part of a SYNC goes. One write of the image of the registers to `ADDR`;
after an error nothing more; after `Ok` one read from `ADDR`; the status is written only by a successful read.
(INIT has itself written `STVALID = 0` before its SYNC.) -/
def Obligations.SyncBusPhases : Prop :=
  ∀ (i : Instr) (s : State), runsSync i s = true →
    ∃ t, exec i s = .next t ∧
      ((∃ e, t.history = s.history ++ [.busWriteEv t.cfg.addr (writeImage t.params t.cfg) (.err e)] ∧
          t.responses = s.responses ++ [.transport .write e] ∧ t.status = s.status ∧
          t.stvalid = (if i.isInit then 0#1 else s.stvalid)) ∨
       (∃ e, busAccesses t.history = busAccesses s.history ++
            [.busWriteEv t.cfg.addr (writeImage t.params t.cfg) .ok, .busReadEv t.cfg.addr (.err e)] ∧
          t.responses = s.responses ++ [.transport .read e] ∧ t.status = s.status ∧
          t.stvalid = (if i.isInit then 0#1 else s.stvalid)) ∨
       (∃ buf, busAccesses t.history = busAccesses s.history ++
            [.busWriteEv t.cfg.addr (writeImage t.params t.cfg) .ok, .busReadEv t.cfg.addr (.ok buf)] ∧
          t.responses = s.responses ++ [.ok] ∧ t.status = decodeStatus buf ∧ t.stvalid = 1#1))

/-- The settle stands between the write and the read (20_memory.md section 5), for the least time SETTLE_DELAY; a
failed write is followed by neither. That the settle is an event of the history is the model's choice (log 4). -/
def Obligations.SettleBetweenWriteAndRead : Prop :=
  ∀ (i : Instr) (s : State), runsSync i s = true →
    ∃ t, exec i s = .next t ∧
      ((∃ a img e, t.history = s.history ++ [.busWriteEv a img (.err e)]) ∨
       (∃ a img r, t.history = s.history ++
          [.busWriteEv a img .ok, .settleEv s.params.settleDelay, .busReadEv a r]))

/-- The bus chooses (20_memory.md section 2; `writeAnswers` and `readAnswers` are the model's form of it, log 7):
whatever write and read results are listed, a SYNC takes exactly them, so every error and every five bytes can
come. -/
def Obligations.BusAnswersAreTaken : Prop :=
  ∀ (i : Instr) (s : State) (ws : List WriteResult) (rs : List ReadResult) (e : BusError) (buf : Image),
    runsSync i s = true →
    (∃ t, exec i (s.withAnswers (.err e :: ws) rs) = .next t ∧
      t.responses = s.responses ++ [.transport .write e] ∧ t.writeAnswers = ws ∧ t.readAnswers = rs ∧
      t.draws = s.draws) ∧
    (∃ t, exec i (s.withAnswers (.ok :: ws) (.err e :: rs)) = .next t ∧
      t.responses = s.responses ++ [.transport .read e] ∧ t.writeAnswers = ws ∧ t.readAnswers = rs ∧
      t.draws = s.draws) ∧
    (∃ t, exec i (s.withAnswers (.ok :: ws) (.ok buf :: rs)) = .next t ∧
      t.responses = s.responses ++ [.ok] ∧ t.writeAnswers = ws ∧ t.readAnswers = rs ∧ t.draws = s.draws ∧
      t.status = decodeStatus buf)

/-- R104: with a transport that succeeds, every accepted command ends in `OK`, whatever its frequency, threshold
or band operand. -/
def Obligations.InvalidInputIsNoError : Prop :=
  ∀ (i : Instr) (s : State) (ws : List WriteResult) (rs : List ReadResult) (buf : Image),
    accepted i s = true → s.writeAnswers = .ok :: ws → s.readAnswers = .ok buf :: rs →
    ∃ t, exec i s = .next t ∧ t.responses = s.responses ++ [.ok] ∧ t.lc = .ready

/-- R92: the configuration a command leaves does not depend on what the bus answers, so a failing SYNC rolls
nothing back; only INIT's `LC` depends on it. -/
def Obligations.FailedSyncRollsNothingBack : Prop :=
  ∀ (i : Instr) (s : State) (ws ws' : List WriteResult) (rs rs' : List ReadResult), runsSync i s = true →
    ∃ t t' r r', exec i (s.withAnswers ws rs) = .next t ∧ exec i (s.withAnswers ws' rs') = .next t' ∧
      t.cfg = t'.cfg ∧ t.cfg = bandClamped (requestedFreq i s.cfg) { t.cfg with band := requestedBand i s.cfg } ∧
      t.responses = s.responses ++ [r] ∧ t'.responses = s.responses ++ [r'] ∧
      (i.isInit = false → t.lc = .ready ∧ t'.lc = .ready) ∧
      (i.isInit = true → (t.lc = .ready ↔ r = .ok) ∧ (t'.lc = .ready ↔ r' = .ok))

/-- INIT that runs its SYNC (40_commands.md section 1): the operands and the five values of decision D9, then step
1 of SYNC on them; `LC` is READY exactly after `OK`. -/
def Obligations.InitConstructs : Prop :=
  ∀ (a7 : DevAddr) (imm : Int) (bnd : BitVec 2) (st sm nc hc : Bit) (s : State),
    s.lc = .unconstructed → ¬ (s.params.skipInitialSyncWhenZero = true ∧ imm ≤ 0) →
    ∃ t, exec (.init a7 imm bnd st sm nc hc) s = .next t ∧
      t.cfg = bandClamped imm
        { f := BitVec.ofInt 32 imm, band := bnd, mute := 0#1, stby := 0#1, stereo := st, smute := sm, hcc := hc,
          snc := nc, srch := 0#1, sud := 1#1, ssl := 0b10#2, addr := a7 } ∧
      ((t.responses = s.responses ++ [.ok] ∧ t.lc = .ready ∧ t.stvalid = 1#1) ∨
       (∃ ph e, t.responses = s.responses ++ [.transport ph e] ∧ t.lc = .unconstructed ∧ t.stvalid = 0#1)) ∧
      SyncFrame s t 0#1

/-- R15: the option makes INIT skip its SYNC exactly when the operand is not greater than 0, and nothing else
makes it do so (the default is false); a skipping INIT (40_commands.md section 1) writes its operands as given,
makes no bus access and responds `OK`. -/
def Obligations.InitialSyncOption : Prop :=
  State.reset.params.skipInitialSyncWhenZero = false ∧
  ∀ (a7 : DevAddr) (imm : Int) (bnd : BitVec 2) (st sm nc hc : Bit) (s : State), s.lc = .unconstructed →
    ∃ t, exec (.init a7 imm bnd st sm nc hc) s = .next t ∧
      (s.params.skipInitialSyncWhenZero = false → t.history ≠ s.history) ∧
      (s.params.skipInitialSyncWhenZero = true → 0 < imm → t.history ≠ s.history) ∧
      (s.params.skipInitialSyncWhenZero = true → imm ≤ 0 →
        t = { s with
          cfg := { f := BitVec.ofInt 32 imm, band := bnd, mute := 0#1, stby := 0#1, stereo := st, smute := sm,
                   hcc := hc, snc := nc, srch := 0#1, sud := 1#1, ssl := 0b10#2, addr := a7 },
          stvalid := 0#1, lc := .ready, responses := s.responses ++ [.ok] })

/-- R119: the table of the state after an INIT, column by column, and what a failing INIT leaves. -/
def Obligations.StateAfterInit : Prop :=
  ∀ (a7 : DevAddr) (imm : Int) (bnd : BitVec 2) (st sm nc hc : Bit) (s : State),
    s.lc = .unconstructed → immInRange imm = true →
    ∃ t r, exec (.init a7 imm bnd st sm nc hc) s = .next t ∧ t.responses = s.responses ++ [r] ∧
      (r = .ok →
        t.lc = .ready ∧ t.cfg.addr = a7 ∧ t.cfg.stereo = st ∧ t.cfg.smute = sm ∧ t.cfg.snc = nc ∧
        t.cfg.hcc = hc ∧ t.cfg.mute = 0#1 ∧ t.cfg.stby = 0#1 ∧ t.cfg.srch = 0#1 ∧ t.cfg.sud = 1#1 ∧
        t.cfg.ssl = 0b10#2) ∧
      (r = .ok → t.history ≠ s.history →
        t.cfg.band = (if bnd = 0b01#2 then 0b01#2 else 0b00#2) ∧
        t.cfg.f.toInt = (if bnd = 0b01#2 then max 76000 (min 91000 imm) else max 87500 (min 108000 imm)) ∧
        t.stvalid = 1#1 ∧
        ∃ buf, t.history.getLast? = some (.busReadEv a7 (.ok buf)) ∧ t.status = decodeStatus buf) ∧
      (r = .ok → t.history = s.history →
        t.cfg.band = bnd ∧ t.cfg.f.toInt = imm ∧ imm ≤ 0 ∧ t.stvalid = 0#1 ∧
        ∀ reg ∈ [RegName.rdy, .obsf, .stdet, .lev], observe reg t = .error .obsStatusNotValid) ∧
      (r ≠ .ok → t.lc = .unconstructed ∧
        ∀ reg : RegName, reg ≠ .lc → reg ≠ .stvalid → ∃ fault, observe reg t = .error fault)

/-- SETF (40_commands.md section 2): `F` and `BAND` through SYNC step 1, nothing else of the configuration. -/
def Obligations.SetfTunes : Prop :=
  ∀ (imm : Int) (s : State), s.lc = .ready →
    ∃ t, exec (.setf imm) s = .next t ∧ t.cfg = bandClamped imm s.cfg ∧ t.lc = .ready ∧ SyncFrame s t s.stvalid

/-- CHGF (40_commands.md section 3): the exact sum of `F` and the delta, clamped, and the direction bit, 1 for a
delta of 0 or more. -/
def Obligations.ChgfRetunes : Prop :=
  ∀ (imm : Int) (s : State), s.lc = .ready →
    ∃ t, exec (.chgf imm) s = .next t ∧
      t.cfg = bandClamped (s.cfg.f.toInt + imm) { s.cfg with sud := if imm < 0 then 0#1 else 1#1 } ∧
      t.lc = .ready ∧ SyncFrame s t s.stvalid

/-- SRCH (40_commands.md section 4): the three search registers, the threshold snapped with fallback level 7; the
frequency is only clamped. -/
def Obligations.SrchSetsSearch : Prop :=
  ∀ (en dir : Bit) (imm : Int) (s : State), s.lc = .ready →
    ∃ t, exec (.srch en dir imm) s = .next t ∧
      t.cfg = bandClamped s.cfg.f.toInt
        { s.cfg with
          srch := en, sud := dir
          ssl := if imm = 0 then 0b00#2 else if imm = 5 then 0b01#2 else if imm = 10 then 0b11#2 else 0b10#2 } ∧
      t.lc = .ready ∧ SyncFrame s t s.stvalid

/-- MUTE (40_commands.md section 5): the mute bit; a full SYNC even where the bit holds the value already. -/
def Obligations.MuteSetsMute : Prop :=
  ∀ (en : Bit) (s : State), s.lc = .ready →
    ∃ t, exec (.mute en) s = .next t ∧ t.cfg = bandClamped s.cfg.f.toInt { s.cfg with mute := en } ∧
      t.lc = .ready ∧ t.history ≠ s.history ∧ SyncFrame s t s.stvalid

/-- STBY (40_commands.md section 5): the standby bit; the block keeps running SYNC in standby. -/
def Obligations.StbySetsStandby : Prop :=
  ∀ (en : Bit) (s : State), s.lc = .ready →
    ∃ t, exec (.stby en) s = .next t ∧ t.cfg = bandClamped s.cfg.f.toInt { s.cfg with stby := en } ∧
      t.lc = .ready ∧ t.history ≠ s.history ∧ SyncFrame s t s.stvalid

/-- The blank cells of the write-access matrix (10_state.md section 5), over every command word: a register that
changes names the commands that can have changed it. -/
def Obligations.WriteAccessMatrix : Prop :=
  ∀ (s t : State) (cmd : Command) (rest : List HostInput) (i : Instr),
    s.inputs = .command cmd :: rest → decode cmd = .ok i → step s = .next t →
    (t.cfg.mute ≠ s.cfg.mute → i.opcode = .init ∨ i.opcode = .mute) ∧
    (t.cfg.stby ≠ s.cfg.stby → i.opcode = .init ∨ i.opcode = .stby) ∧
    ((t.cfg.stereo ≠ s.cfg.stereo ∨ t.cfg.smute ≠ s.cfg.smute ∨ t.cfg.hcc ≠ s.cfg.hcc ∨ t.cfg.snc ≠ s.cfg.snc) →
      i.opcode = .init) ∧
    (t.cfg.srch ≠ s.cfg.srch → i.opcode = .init ∨ i.opcode = .srch) ∧
    (t.cfg.sud ≠ s.cfg.sud → i.opcode = .init ∨ i.opcode = .chgf ∨ i.opcode = .srch) ∧
    (t.cfg.ssl ≠ s.cfg.ssl → i.opcode = .init ∨ i.opcode = .srch) ∧
    (t.cfg.addr ≠ s.cfg.addr → i.opcode = .init) ∧
    (t.lc ≠ s.lc → i.opcode = .init) ∧
    (t.status ≠ s.status → ∃ buf, t.history.getLast? = some (.busReadEv t.cfg.addr (.ok buf)))

/-- Once constructed, only a hardware reset ends it: no other step leaves READY or changes `ADDR` (10_state.md
sections 2 and 4). -/
def Obligations.ConstructedUntilReset : Prop :=
  ∀ s t : State, s.lc = .ready → s.inputs.head? ≠ some .reset → step s = .next t →
    t.lc = .ready ∧ t.cfg.addr = s.cfg.addr

/-- R87: the stereo bit of write byte 2, for each polarity; the default is INVERTED. -/
def Obligations.StereoBitPolarity : Prop :=
  State.reset.params.stereoPolarity = .inverted ∧
  ∀ (p : Params) (c : ConfigFile),
    (p.stereoPolarity = .inverted → ((writeImage p c).b2.getLsbD 3 = true ↔ c.stereo = 0#1)) ∧
    (p.stereoPolarity = .direct → ((writeImage p c).b2.getLsbD 3 = true ↔ c.stereo = 1#1))

/-- R88 (and the byte layouts R58 to R62): PACK in the rule's own shifts and ors. -/
def Obligations.PackInShiftForm : Prop :=
  ∀ (p : Params) (c : ConfigFile) (w : PllWord),
    (packWord p c w).b0 =
      (c.mute.setWidth 8 <<< 7) ||| (c.srch.setWidth 8 <<< 6) ||| (w >>> 8).setWidth 8 ∧
    (packWord p c w).b1 = (w &&& 0xFF#14).setWidth 8 ∧
    (packWord p c w).b2 =
      (c.sud.setWidth 8 <<< 7) ||| (c.ssl.setWidth 8 <<< 5) ||| (1#8 <<< 4) |||
        ((stereoBit p.stereoPolarity c.stereo).setWidth 8 <<< 3) ∧
    (packWord p c w).b3 =
      (c.stby.setWidth 8 <<< 6) ||| ((if c.band = 0b01#2 then 1#8 else 0#8) <<< 5) ||| (1#8 <<< 4) |||
        (c.smute.setWidth 8 <<< 3) ||| (c.hcc.setWidth 8 <<< 2) ||| (c.snc.setWidth 8 <<< 1) ∧
    (packWord p c w).b4 = 0x00#8

/-- R85: the range of the PLL word of a register file SYNC step 1 can leave; the word needs no truncation. -/
def Obligations.PllWordRange : Prop :=
  ∀ (p : Params) (c : ConfigFile), InBand c →
    ((pllWord p c).toNat : Int) = quant p.tieRule c.f.toInt ∧
    9305 ≤ (pllWord p c).toNat ∧ (pllWord p c).toNat ≤ 13211 ∧
    (c.band = 0b01#2 → 9305 ≤ (pllWord p c).toNat ∧ (pllWord p c).toNat ≤ 11136) ∧
    (c.band = 0b00#2 → 10709 ≤ (pllWord p c).toNat ∧ (pllWord p c).toNat ≤ 13211) ∧
    0x24 ≤ (freqH (pllWord p c)).toNat ∧ (freqH (pllWord p c)).toNat ≤ 0x33

/-- QUANT (41_sync_encode.md section 2) is the nearest multiple of 8192 Hz: the error is at most half a step, for
either tie rule and every frequency, and where it is less than half the word is the only one so near. -/
def Obligations.QuantIsNearest : Prop :=
  ∀ (t : TieRule) (f : Int),
    2 * |8192 * quant t f - (1000 * f + 225000)| ≤ 8192 ∧
    ∀ k : Int, 2 * |8192 * k - (1000 * f + 225000)| < 8192 → quant t f = k

/-- The ties of QUANT (41_sync_encode.md section 2): at the frequencies 287 modulo 1024 and at no other, and there
HALF_EVEN takes the even neighbour and HALF_UP the upper one. -/
def Obligations.QuantTies : Prop :=
  ∀ f : Int,
    (f % 1024 = 287 ↔ 2 * ((1000 * f + 225000) % 8192) = 8192) ∧
    (f % 1024 = 287 →
      quant .halfUp f = (1000 * f + 225000) / 8192 + 1 ∧ quant .halfEven f % 2 = 0 ∧
      (quant .halfEven f = quant .halfUp f ∨ quant .halfEven f + 1 = quant .halfUp f)) ∧
    (f % 1024 ≠ 287 → quant .halfEven f = quant .halfUp f)

/-- R93, its four derived properties of the write image. -/
def Obligations.WriteImageProperties : Prop :=
  (∀ (p q : Params) (c : ConfigFile) (a : DevAddr),
    p.stereoPolarity = q.stereoPolarity → p.tieRule = q.tieRule →
    writeImage p c = writeImage q { c with addr := a }) ∧
  (∀ (p : Params) (c : ConfigFile),
    writeImage p { c with mute := ~~~ c.mute } = { writeImage p c with b0 := (writeImage p c).b0 ^^^ 0x80#8 } ∧
    writeImage p { c with srch := ~~~ c.srch } = { writeImage p c with b0 := (writeImage p c).b0 ^^^ 0x40#8 } ∧
    writeImage p { c with sud := ~~~ c.sud } = { writeImage p c with b2 := (writeImage p c).b2 ^^^ 0x80#8 } ∧
    writeImage p { c with stereo := ~~~ c.stereo } =
      { writeImage p c with b2 := (writeImage p c).b2 ^^^ 0x08#8 } ∧
    writeImage p { c with stby := ~~~ c.stby } = { writeImage p c with b3 := (writeImage p c).b3 ^^^ 0x40#8 } ∧
    writeImage p { c with smute := ~~~ c.smute } =
      { writeImage p c with b3 := (writeImage p c).b3 ^^^ 0x08#8 } ∧
    writeImage p { c with hcc := ~~~ c.hcc } = { writeImage p c with b3 := (writeImage p c).b3 ^^^ 0x04#8 } ∧
    writeImage p { c with snc := ~~~ c.snc } = { writeImage p c with b3 := (writeImage p c).b3 ^^^ 0x02#8 }) ∧
  (∀ (p : Params) (c : ConfigFile) (v : BitVec 2),
    writeImage p { c with ssl := v } =
      { writeImage p c with b2 := ((writeImage p c).b2 &&& 0x9F#8) ||| (v.setWidth 8 <<< 5) }) ∧
  (∀ (p : Params) (c : ConfigFile) (f' : BitVec 32), c.band = 0b00#2 →
    (writeImage p { c with band := 0b01#2, f := f' }).b2 = (writeImage p c).b2 ∧
    (writeImage p { c with band := 0b01#2, f := f' }).b3 = (writeImage p c).b3 ^^^ 0x20#8 ∧
    (writeImage p { c with band := 0b01#2, f := f' }).b4 = (writeImage p c).b4 ∧
    (writeImage p { c with band := 0b01#2, f := f' }).b0 &&& 0xC0#8 = (writeImage p c).b0 &&& 0xC0#8 ∧
    (f' = c.f →
      writeImage p { c with band := 0b01#2, f := f' } =
        { writeImage p c with b3 := (writeImage p c).b3 ^^^ 0x20#8 })) ∧
  (∀ (p : Params) (c : ConfigFile),
    (writeImage p c).b2 &&& 0x17#8 = 0x10#8 ∧ (writeImage p c).b3 &&& 0x91#8 = 0x10#8 ∧
    (writeImage p c).b4 = 0x00#8) ∧
  (∀ (p : Params) (c : ConfigFile), InBand c →
    0x24#8 ≤ (writeImage p c).b0 &&& 0x3F#8 ∧ (writeImage p c).b0 &&& 0x3F#8 ≤ 0x33#8)

/-- R78 and R64: SNAP keeps the four legal levels and gives every other integer the code of level 7; level and code
name each other. -/
def Obligations.ThresholdSnapping : Prop :=
  (∀ a : Int,
    (a = 0 → snap a = 0b00#2) ∧ (a = 5 → snap a = 0b01#2) ∧ (a = 7 → snap a = 0b10#2) ∧
    (a = 10 → snap a = 0b11#2) ∧ (a ≠ 0 → a ≠ 5 → a ≠ 7 → a ≠ 10 → snap a = 0b10#2)) ∧
  (∀ code : BitVec 2, snap (levelOfCode code) = code) ∧
  (∀ a : Int, a ∈ [0, 5, 7, 10] → levelOfCode (snap a) = a)

/-- R95, R96, R99 and R100: the decoded fields as numbers. -/
def Obligations.StatusFieldsDecoded : Prop :=
  ∀ buf : Image,
    (decodeStatus buf).rdy.toNat = buf.b0.toNat / 128 ∧
    (readbackWord buf).toNat = (buf.b0.toNat % 64) * 256 + buf.b1.toNat ∧
    (decodeStatus buf).stdet.toNat = buf.b2.toNat / 128 ∧
    (decodeStatus buf).lev.toNat = buf.b3.toNat / 16

/-- DEQUANT (42_status_decode.md): `OBSF` is the nearest count of 100 kHz to the frequency of the readback word,
never half a unit off, within `[-2, 1340]` and not truncated, and does not fall as the word rises. -/
def Obligations.ObservedFrequencyIsNearest : Prop :=
  (∀ buf : Image,
    2 * |100000 * (decodeStatus buf).obsf.toInt - (8192 * ((readbackWord buf).toNat : Int) - 225000)| < 100000 ∧
    -2 ≤ (decodeStatus buf).obsf.toInt ∧ (decodeStatus buf).obsf.toInt ≤ 1340) ∧
  (∀ a b : Int, a ≤ b → dequant a ≤ dequant b)

/-- R98: DEQUANT has no ties, so its tie rule has no effect. -/
def Obligations.DequantHasNoTies : Prop :=
  (∀ rw k : Int, 2 * (8192 * rw - 225000) ≠ (2 * k + 1) * 100000) ∧
  (∀ (rw : Int) (t : TieRule), roundDiv (8192 * rw - 225000) 100000 t = dequant rw)

/-- R102: changing any of the ignored bits changes no register, whatever the command. -/
def Obligations.IgnoredReadBits : Prop :=
  ∀ (i : Instr) (s : State) (ws : List WriteResult) (rs : List ReadResult) (buf : Image) (x0 x2 x3 x4 : Byte),
    ∃ t t',
      exec i (s.withAnswers ws (.ok buf :: rs)) = .next t ∧
      exec i (s.withAnswers ws (.ok (changeIgnored buf x0 x2 x3 x4) :: rs)) = .next t' ∧
      t'.cfg = t.cfg ∧ t'.status = t.status ∧ t'.stvalid = t.stvalid ∧ t'.lc = t.lc ∧
      t'.responses = t.responses

/-- The round trip of 42_status_decode.md: within 54 kHz for every whole kHz of a band, exact on the 100 kHz
grid. -/
def Obligations.TuneReadRoundTrip : Prop :=
  ∀ (t : TieRule) (f : Int), 76000 ≤ f → f ≤ 108000 →
    |100 * dequant (quant t f) - f| ≤ 54 ∧ (f % 100 = 0 → dequant (quant t f) = f / 100)

/-- R39: every SYNC leaves the band invariant, whether or not the transport fails, and it then holds until the
next accepted INIT (or a hardware reset, after which no register holds a value). -/
def Obligations.BandInvariantUntilNextInit : Prop :=
  (∀ (i : Instr) (s : State), runsSync i s = true → ∃ t, exec i s = .next t ∧ InBand t.cfg) ∧
  (∀ s t : State, InBand s.cfg → step s = .next t → s.inputs.head? ≠ some .reset →
    (∀ cmd rest i, s.inputs = .command cmd :: rest → decode cmd = .ok i → i.isInit = true → s.lc = .ready) →
    InBand t.cfg)

/-- Invariant of every step, reset included (10_state.md section 5, 40_commands.md section 1): a constructed block
is in band unless its INIT skipped SYNC and nothing has been read since; without an instance no status is
valid. -/
def Obligations.RegisterInvariantKept : Prop :=
  ∀ s t : State, BandHeld s → LifecycleHeld s → step s = .next t → BandHeld t ∧ LifecycleHeld t

/-- Invariant of every step (41_sync_encode.md section 5, 42_status_decode.md, 70_reset_and_hazards.md section 3):
valid status is the decode of the last successful read in the bus history, all four registers of it. -/
def Obligations.StatusIsLastSuccessfulRead : Prop :=
  ∀ s t : State, StatusFresh s → step s = .next t → StatusFresh t

/-- Invariant of every step (20_memory.md section 5): the bus history is a run of failed writes and of write,
settle, read of one device; a step adds at most one write and one read and takes the host's inputs in order. That
the settle is an event of the history is the model's choice (log 4: R43 and R44 name the write and the read only),
and so is the form of the host's inputs, a list of which a step takes the head (log 2). -/
def Obligations.BusHistoryStaysOrdered : Prop :=
  ∀ s t : State, historyOrdered s.history = true → step s = .next t →
    historyOrdered t.history = true ∧ t.inputs = s.inputs.tail ∧
    ∃ events, t.history = s.history ++ events ∧
      (events.filter (fun e => match e with | .busWriteEv _ _ _ => true | _ => false)).length ≤ 1 ∧
      (events.filter (fun e => match e with | .busReadEv _ _ => true | _ => false)).length ≤ 1

/-- The invariants above hold right after reset (70_reset_and_hazards.md section 1); the history they speak of, and
its being empty at reset, are the model's form of it (log 4). -/
def Obligations.InvariantsAtReset : Prop :=
  BandHeld State.reset ∧ LifecycleHeld State.reset ∧ StatusFresh State.reset ∧
  historyOrdered State.reset.history = true

/-- Registers that hold no value cannot be told apart by any run (60_exceptions.md R111's fault and
70_reset_and_hazards.md section 1): two states equal but for such registers give equal observations and step to
two such states. So nothing the host can see rests on the placeholders of log 1. -/
def Obligations.UnsetRegistersAreInvisible : Prop :=
  ∀ s t : State, SameButUnset s t →
    (∀ reg : RegName, observe reg s = observe reg t) ∧
    ∃ s' t', step s = .next s' ∧ step t = .next t' ∧ SameButUnset s' t'

/-- R111: when an observation faults, and with which fault; otherwise it gives the register's value. `LC` and
`STVALID`, and no others, are always readable (10_state.md section 5); the status registers are the four of
10_state.md section 3, and the rest are configuration registers. `ObservedValues` says which value each name
gives. -/
def Obligations.ObservationFaults : Prop :=
  ∀ (s : State) (reg : RegName),
    (reg.file = .config → s.lc = .unconstructed → observe reg s = .error .obsNotConstructed) ∧
    (reg.file = .config → s.lc = .ready → observe reg s = .ok (regValue s reg)) ∧
    (reg.file = .status → s.lc = .unconstructed ∨ s.stvalid = 0#1 → observe reg s = .error .obsStatusNotValid) ∧
    (reg.file = .status → s.lc = .ready → s.stvalid = 1#1 → observe reg s = .ok (regValue s reg)) ∧
    (reg.file = .bookkeeping → observe reg s = .ok (regValue s reg)) ∧
    (reg.file = .bookkeeping ↔ reg = .lc ∨ reg = .stvalid) ∧
    (reg.file = .status ↔ reg = .rdy ∨ reg = .obsf ∨ reg = .stdet ∨ reg = .lev)

/-- The value each register's name gives when it can be read (10_state.md sections 2 to 5): the register of that
name, `F` and `OBSF` as signed numbers, every other as an unsigned one, `LC` as its value. -/
def Obligations.ObservedValues : Prop :=
  ∀ s : State,
    (s.lc = .ready →
      observe .f s = .ok (.num s.cfg.f.toInt) ∧ observe .band s = .ok (.num s.cfg.band.toNat) ∧
      observe .mute s = .ok (.num s.cfg.mute.toNat) ∧ observe .stby s = .ok (.num s.cfg.stby.toNat) ∧
      observe .stereo s = .ok (.num s.cfg.stereo.toNat) ∧ observe .smute s = .ok (.num s.cfg.smute.toNat) ∧
      observe .hcc s = .ok (.num s.cfg.hcc.toNat) ∧ observe .snc s = .ok (.num s.cfg.snc.toNat) ∧
      observe .srch s = .ok (.num s.cfg.srch.toNat) ∧ observe .sud s = .ok (.num s.cfg.sud.toNat) ∧
      observe .ssl s = .ok (.num s.cfg.ssl.toNat) ∧ observe .addr s = .ok (.num s.cfg.addr.toNat)) ∧
    (s.lc = .ready → s.stvalid = 1#1 →
      observe .rdy s = .ok (.num s.status.rdy.toNat) ∧ observe .obsf s = .ok (.num s.status.obsf.toInt) ∧
      observe .stdet s = .ok (.num s.status.stdet.toNat) ∧ observe .lev s = .ok (.num s.status.lev.toNat)) ∧
    observe .stvalid s = .ok (.num s.stvalid.toNat) ∧ observe .lc s = .ok (.lifecycle s.lc)

/-- R118: the state after reset, and after the reset input from any state. No register but `LC` and `STVALID` can
be read, no bus access is made, and the only command then not answered `ILLEGAL` is INIT. -/
def Obligations.HardwareReset : Prop :=
  (State.reset.lc = .unconstructed ∧ State.reset.stvalid = 0#1 ∧ State.reset.history = []) ∧
  (∀ reg : RegName, reg ≠ .lc → reg ≠ .stvalid → ∃ fault, observe reg State.reset = .error fault) ∧
  (∀ (s : State) (rest : List HostInput), s.inputs = .reset :: rest →
    ∃ t, step s = .next t ∧ t.lc = .unconstructed ∧ t.stvalid = 0#1 ∧ t.history = s.history ∧
      (∀ reg : RegName, reg ≠ .lc → reg ≠ .stvalid → ∃ fault, observe reg t = .error fault) ∧
      (∀ (cmd : Command) (rest' : List HostInput), rest = .command cmd :: rest' →
        ∃ u r, step t = .next u ∧ u.responses = t.responses ++ [r] ∧
          (r.isIllegal = false → ∃ i, decode cmd = .ok i ∧ i.isInit = true)))

/-- The named parameters are fixed for the machine (00_scope.md section 3; carrying them in State is the model's
choice, log 5): no step changes one. -/
def Obligations.ParametersAreFixed : Prop :=
  ∀ s t : State, step s = .next t → t.params = s.params
end

