-- ==== Sys2Proof/Laws/Arith.lean ====
section
/-! SUPPORT. What the arithmetic of 00_scope.md rule R18 does: rounding, clamping, and the word and status values
made with them. -/

namespace Sys2Proof.Machine

/-- The rest `roundDiv` compares with half the divisor. -/
theorem sub_ediv_mul (n d : Int) : n - n / d * d = n % d := by
  have := Int.mul_ediv_add_emod n d
  have hc : n / d * d = d * (n / d) := Int.mul_comm _ _
  omega

/-- Below the half, `roundDiv` is the quotient. -/
theorem roundDiv_below {n d : Int} (t : TieRule) (h : 2 * (n % d) < d) : roundDiv n d t = n / d := by
  simp only [roundDiv, floorDiv, sub_ediv_mul]
  exact if_pos h

/-- Above the half, `roundDiv` is the quotient and one. -/
theorem roundDiv_above {n d : Int} (t : TieRule) (h : d < 2 * (n % d)) : roundDiv n d t = n / d + 1 := by
  simp only [roundDiv, floorDiv, sub_ediv_mul]
  rw [if_neg (by omega), if_pos h]

/-- At the half, HALF_UP takes the upper neighbour (R18). -/
theorem roundDiv_tie_halfUp {n d : Int} (h : 2 * (n % d) = d) : roundDiv n d .halfUp = n / d + 1 := by
  simp only [roundDiv, floorDiv, sub_ediv_mul]
  rw [if_neg (by omega), if_neg (by omega)]

/-- At the half, HALF_EVEN takes the even neighbour (R18). -/
theorem roundDiv_tie_halfEven {n d : Int} (h : 2 * (n % d) = d) :
    roundDiv n d .halfEven = if n / d % 2 = 0 then n / d else n / d + 1 := by
  simp only [roundDiv, floorDiv, sub_ediv_mul]
  rw [if_neg (by omega), if_neg (by omega)]
  rfl

/-- `roundDiv` is one of the two neighbours of the quotient, the nearer one. -/
theorem roundDiv_cases (n d : Int) (t : TieRule) :
    (roundDiv n d t = n / d ∧ 2 * (n % d) ≤ d) ∨ (roundDiv n d t = n / d + 1 ∧ d ≤ 2 * (n % d)) := by
  rcases lt_trichotomy (2 * (n % d)) d with h | h | h
  · exact .inl ⟨roundDiv_below t h, by omega⟩
  · cases t with
    | halfUp => exact .inr ⟨roundDiv_tie_halfUp h, by omega⟩
    | halfEven =>
      rw [roundDiv_tie_halfEven h]
      by_cases he : n / d % 2 = 0
      · exact .inl ⟨if_pos he, by omega⟩
      · exact .inr ⟨if_neg he, by omega⟩
  · exact .inr ⟨roundDiv_above t h, by omega⟩

/-- `roundDiv` is within half a divisor of the quotient. -/
theorem roundDiv_near (n d : Int) (t : TieRule) (hd : 0 < d) :
    -d ≤ 2 * (d * roundDiv n d t - n) ∧ 2 * (d * roundDiv n d t - n) ≤ d := by
  have hdiv := Int.mul_ediv_add_emod n d
  have h0 := Int.emod_nonneg n (ne_of_gt hd)
  have h1 := Int.emod_lt_of_pos n hd
  have hs : d * (n / d + 1) = d * (n / d) + d := by ring
  obtain ⟨hk, _⟩ | ⟨hk, _⟩ := roundDiv_cases n d t <;> rw [hk] <;> (try rw [hs]) <;> omega

/-- An integer nearer than half a divisor is the one `roundDiv` gives. -/
theorem roundDiv_unique (n d : Int) (t : TieRule) (hd : 0 < d) (k : Int)
    (h : -d < 2 * (d * k - n) ∧ 2 * (d * k - n) < d) : roundDiv n d t = k := by
  have hn := roundDiv_near n d t hd
  have hlo : -d < d * (roundDiv n d t - k) := by rw [Int.mul_sub]; omega
  have hhi : d * (roundDiv n d t - k) < d := by rw [Int.mul_sub]; omega
  have h1 : roundDiv n d t - k < 1 := by
    by_contra hc
    have : d * 1 ≤ d * (roundDiv n d t - k) := Int.mul_le_mul_of_nonneg_left (by omega) (by omega)
    omega
  have h2 : -1 < roundDiv n d t - k := by
    by_contra hc
    have : d * (roundDiv n d t - k) ≤ d * (-1) := Int.mul_le_mul_of_nonneg_left (by omega) (by omega)
    omega
  omega

/-- `clamp` as a maximum and a minimum. -/
theorem clamp_eq_max_min (v lo hi : Int) (h : lo ≤ hi) : clamp v lo hi = max lo (min hi v) := by
  simp only [clamp]
  split
  · omega
  · split <;> omega

/-- Step 1 of SYNC in the numbers of R82 and R83. -/
theorem syncStep1_eq_bandClamped (fin : Int) (c : ConfigFile) : syncStep1 fin c = bandClamped fin c := by
  by_cases h : c.band = 0b01#2
  · rw [bandClamped, if_pos h, ← clamp_eq_max_min _ _ _ (by omega)]
    cases c
    simp_all [syncStep1, coerceBand, clampToBand, bandLo, bandHi, bandJP]
  · simp [syncStep1, bandClamped, coerceBand, clampToBand, bandLo, bandHi, bandJP, bandUS, h, clamp_eq_max_min]

end Sys2Proof.Machine
end

