-- ==== Sys2Proof/Laws/Encoder.lean ====
section
/-! SUPPORT. The write image byte by byte, so that no proof compares whole images (41_sync_encode.md rule R88). -/

namespace Sys2Proof.Machine

section
variable (p : Params) (c : ConfigFile)

@[simp] theorem writeImage_b0 : (writeImage p c).b0 = writeByte0 c (pllWord p c) := rfl
@[simp] theorem writeImage_b1 : (writeImage p c).b1 = writeByte1 (pllWord p c) := rfl
@[simp] theorem writeImage_b2 : (writeImage p c).b2 = writeByte2 p c := rfl
@[simp] theorem writeImage_b3 : (writeImage p c).b3 = writeByte3 c := rfl
@[simp] theorem writeImage_b4 : (writeImage p c).b4 = writeByte4 := rfl

end

/-- The PLL word depends on `F` and the tie rule alone (R84). -/
theorem pllWord_congr {p q : Params} {c d : ConfigFile} (ht : p.tieRule = q.tieRule) (hf : c.f = d.f) :
    pllWord p c = pllWord q d := by
  unfold pllWord
  rw [ht, hf]

/-- Two images are equal when their bytes are. -/
theorem image_eq {a b : Image} (h0 : a.b0 = b.b0) (h1 : a.b1 = b.b1) (h2 : a.b2 = b.b2) (h3 : a.b3 = b.b3)
    (h4 : a.b4 = b.b4) : a = b := by
  cases a
  cases b
  simp_all

end Sys2Proof.Machine
end

