-- ==== Sys2Proof/Laws/Encoding.lean ====
section
/-! SUPPORT. The fields of a word laid out by `wordOf` (30_encoding.md rule R65), and the immediate's round trip
(rule R68). -/

namespace Sys2Proof

section
variable (op : BitVec 4) (a7 : DevAddr) (bnd : BitVec 2) (hc nc sm st dir en : Bit) (imm : Int)

@[simp] theorem fieldOP_wordOf : fieldOP (wordOf op a7 bnd hc nc sm st dir en imm) = op := by
  ext k hk
  simp only [fieldOP, wordOf, BitVec.getElem_extractLsb', BitVec.getLsbD_append]
  interval_cases k <;> simp

@[simp] theorem fieldA7_wordOf : fieldA7 (wordOf op a7 bnd hc nc sm st dir en imm) = a7 := by
  ext k hk
  simp only [fieldA7, wordOf, BitVec.getElem_extractLsb', BitVec.getLsbD_append]
  interval_cases k <;> simp

@[simp] theorem fieldBND_wordOf : fieldBND (wordOf op a7 bnd hc nc sm st dir en imm) = bnd := by
  ext k hk
  simp only [fieldBND, wordOf, BitVec.getElem_extractLsb', BitVec.getLsbD_append]
  interval_cases k <;> simp

@[simp] theorem fieldHC_wordOf : fieldHC (wordOf op a7 bnd hc nc sm st dir en imm) = hc := by
  ext k hk
  simp only [fieldHC, wordOf, BitVec.getElem_extractLsb', BitVec.getLsbD_append]
  interval_cases k; simp

@[simp] theorem fieldNC_wordOf : fieldNC (wordOf op a7 bnd hc nc sm st dir en imm) = nc := by
  ext k hk
  simp only [fieldNC, wordOf, BitVec.getElem_extractLsb', BitVec.getLsbD_append]
  interval_cases k; simp

@[simp] theorem fieldSM_wordOf : fieldSM (wordOf op a7 bnd hc nc sm st dir en imm) = sm := by
  ext k hk
  simp only [fieldSM, wordOf, BitVec.getElem_extractLsb', BitVec.getLsbD_append]
  interval_cases k; simp

@[simp] theorem fieldST_wordOf : fieldST (wordOf op a7 bnd hc nc sm st dir en imm) = st := by
  ext k hk
  simp only [fieldST, wordOf, BitVec.getElem_extractLsb', BitVec.getLsbD_append]
  interval_cases k; simp

@[simp] theorem fieldDIR_wordOf : fieldDIR (wordOf op a7 bnd hc nc sm st dir en imm) = dir := by
  ext k hk
  simp only [fieldDIR, wordOf, BitVec.getElem_extractLsb', BitVec.getLsbD_append]
  interval_cases k; simp

@[simp] theorem fieldEN_wordOf : fieldEN (wordOf op a7 bnd hc nc sm st dir en imm) = en := by
  ext k hk
  simp only [fieldEN, wordOf, BitVec.getElem_extractLsb', BitVec.getLsbD_append]
  interval_cases k; simp

theorem fieldImm_wordOf (h : immInRange imm = true) :
    fieldImm (wordOf op a7 bnd hc nc sm st dir en imm) = imm := by
  have hx : (wordOf op a7 bnd hc nc sm st dir en imm).extractLsb' 0 32 = BitVec.ofInt 32 imm := by
    simp only [wordOf]
    exact BitVec.extractLsb'_append_eq_right
  simp only [immInRange, Bool.and_eq_true, decide_eq_true_eq] at h
  rw [fieldImm, hx, BitVec.toInt_ofInt]
  simp only [Int.bmod]
  omega

end

/-- An immediate read from a word is in range (R68). -/
theorem immInRange_fieldImm (cmd : Command) : immInRange (fieldImm cmd) = true := by
  have h1 := BitVec.le_toInt (x := cmd.extractLsb' 0 32)
  have h2 := BitVec.toInt_lt (x := cmd.extractLsb' 0 32)
  have h3 : -2147483648 ≤ fieldImm cmd ∧ fieldImm cmd ≤ 2147483647 := by
    unfold fieldImm
    omega
  simpa [immInRange] using h3

/-- A word is its fields, the reserved ones among them. -/
theorem word_eq_fields (cmd : Command) :
    cmd = fieldOP cmd ++ cmd.extractLsb' 47 13 ++ fieldA7 cmd ++ fieldBND cmd ++ fieldHC cmd ++ fieldNC cmd ++
      fieldSM cmd ++ fieldST cmd ++ fieldDIR cmd ++ fieldEN cmd ++ BitVec.ofInt 32 (fieldImm cmd) := by
  refine BitVec.eq_of_getLsbD_eq fun k hk => ?_
  simp only [fieldOP, fieldA7, fieldBND, fieldHC, fieldNC, fieldSM, fieldST, fieldDIR, fieldEN, fieldImm,
    BitVec.ofInt_toInt, BitVec.getLsbD_append, BitVec.getLsbD_extractLsb']
  interval_cases k <;> simp

end Sys2Proof
end

