-- ==== Sys2Proof/Laws/State.lean ====
section
/-! SUPPORT. One lemma per field and update of State, so that no later proof unfolds a record update. -/

namespace Sys2Proof.Machine

section
variable (s : State)

@[simp] theorem State.withCfg_cfg (c : ConfigFile) : (s.withCfg c).cfg = c := rfl
@[simp] theorem State.withCfg_status (c : ConfigFile) : (s.withCfg c).status = s.status := rfl
@[simp] theorem State.withCfg_stvalid (c : ConfigFile) : (s.withCfg c).stvalid = s.stvalid := rfl
@[simp] theorem State.withCfg_lc (c : ConfigFile) : (s.withCfg c).lc = s.lc := rfl
@[simp] theorem State.withCfg_params (c : ConfigFile) : (s.withCfg c).params = s.params := rfl
@[simp] theorem State.withCfg_inputs (c : ConfigFile) : (s.withCfg c).inputs = s.inputs := rfl
@[simp] theorem State.withCfg_responses (c : ConfigFile) : (s.withCfg c).responses = s.responses := rfl
@[simp] theorem State.withCfg_history (c : ConfigFile) : (s.withCfg c).history = s.history := rfl
@[simp] theorem State.withCfg_writeAnswers (c : ConfigFile) : (s.withCfg c).writeAnswers = s.writeAnswers := rfl
@[simp] theorem State.withCfg_readAnswers (c : ConfigFile) : (s.withCfg c).readAnswers = s.readAnswers := rfl
@[simp] theorem State.withCfg_draws (c : ConfigFile) : (s.withCfg c).draws = s.draws := rfl

@[simp] theorem State.withStatus_cfg (st : StatusFile) : (s.withStatus st).cfg = s.cfg := rfl
@[simp] theorem State.withStatus_status (st : StatusFile) : (s.withStatus st).status = st := rfl
@[simp] theorem State.withStatus_stvalid (st : StatusFile) : (s.withStatus st).stvalid = s.stvalid := rfl
@[simp] theorem State.withStatus_lc (st : StatusFile) : (s.withStatus st).lc = s.lc := rfl
@[simp] theorem State.withStatus_params (st : StatusFile) : (s.withStatus st).params = s.params := rfl
@[simp] theorem State.withStatus_inputs (st : StatusFile) : (s.withStatus st).inputs = s.inputs := rfl
@[simp] theorem State.withStatus_responses (st : StatusFile) : (s.withStatus st).responses = s.responses := rfl
@[simp] theorem State.withStatus_history (st : StatusFile) : (s.withStatus st).history = s.history := rfl
@[simp] theorem State.withStatus_writeAnswers (st : StatusFile) : (s.withStatus st).writeAnswers = s.writeAnswers := rfl
@[simp] theorem State.withStatus_readAnswers (st : StatusFile) : (s.withStatus st).readAnswers = s.readAnswers := rfl
@[simp] theorem State.withStatus_draws (st : StatusFile) : (s.withStatus st).draws = s.draws := rfl

@[simp] theorem State.withStvalid_cfg (v : Bit) : (s.withStvalid v).cfg = s.cfg := rfl
@[simp] theorem State.withStvalid_status (v : Bit) : (s.withStvalid v).status = s.status := rfl
@[simp] theorem State.withStvalid_stvalid (v : Bit) : (s.withStvalid v).stvalid = v := rfl
@[simp] theorem State.withStvalid_lc (v : Bit) : (s.withStvalid v).lc = s.lc := rfl
@[simp] theorem State.withStvalid_params (v : Bit) : (s.withStvalid v).params = s.params := rfl
@[simp] theorem State.withStvalid_inputs (v : Bit) : (s.withStvalid v).inputs = s.inputs := rfl
@[simp] theorem State.withStvalid_responses (v : Bit) : (s.withStvalid v).responses = s.responses := rfl
@[simp] theorem State.withStvalid_history (v : Bit) : (s.withStvalid v).history = s.history := rfl
@[simp] theorem State.withStvalid_writeAnswers (v : Bit) : (s.withStvalid v).writeAnswers = s.writeAnswers := rfl
@[simp] theorem State.withStvalid_readAnswers (v : Bit) : (s.withStvalid v).readAnswers = s.readAnswers := rfl
@[simp] theorem State.withStvalid_draws (v : Bit) : (s.withStvalid v).draws = s.draws := rfl

@[simp] theorem State.withLc_cfg (v : Lifecycle) : (s.withLc v).cfg = s.cfg := rfl
@[simp] theorem State.withLc_status (v : Lifecycle) : (s.withLc v).status = s.status := rfl
@[simp] theorem State.withLc_stvalid (v : Lifecycle) : (s.withLc v).stvalid = s.stvalid := rfl
@[simp] theorem State.withLc_lc (v : Lifecycle) : (s.withLc v).lc = v := rfl
@[simp] theorem State.withLc_params (v : Lifecycle) : (s.withLc v).params = s.params := rfl
@[simp] theorem State.withLc_inputs (v : Lifecycle) : (s.withLc v).inputs = s.inputs := rfl
@[simp] theorem State.withLc_responses (v : Lifecycle) : (s.withLc v).responses = s.responses := rfl
@[simp] theorem State.withLc_history (v : Lifecycle) : (s.withLc v).history = s.history := rfl
@[simp] theorem State.withLc_writeAnswers (v : Lifecycle) : (s.withLc v).writeAnswers = s.writeAnswers := rfl
@[simp] theorem State.withLc_readAnswers (v : Lifecycle) : (s.withLc v).readAnswers = s.readAnswers := rfl
@[simp] theorem State.withLc_draws (v : Lifecycle) : (s.withLc v).draws = s.draws := rfl

@[simp] theorem State.withInputs_cfg (is : List HostInput) : (s.withInputs is).cfg = s.cfg := rfl
@[simp] theorem State.withInputs_status (is : List HostInput) : (s.withInputs is).status = s.status := rfl
@[simp] theorem State.withInputs_stvalid (is : List HostInput) : (s.withInputs is).stvalid = s.stvalid := rfl
@[simp] theorem State.withInputs_lc (is : List HostInput) : (s.withInputs is).lc = s.lc := rfl
@[simp] theorem State.withInputs_params (is : List HostInput) : (s.withInputs is).params = s.params := rfl
@[simp] theorem State.withInputs_inputs (is : List HostInput) : (s.withInputs is).inputs = is := rfl
@[simp] theorem State.withInputs_responses (is : List HostInput) : (s.withInputs is).responses = s.responses := rfl
@[simp] theorem State.withInputs_history (is : List HostInput) : (s.withInputs is).history = s.history := rfl
@[simp] theorem State.withInputs_writeAnswers (is : List HostInput) : (s.withInputs is).writeAnswers = s.writeAnswers := rfl
@[simp] theorem State.withInputs_readAnswers (is : List HostInput) : (s.withInputs is).readAnswers = s.readAnswers := rfl
@[simp] theorem State.withInputs_draws (is : List HostInput) : (s.withInputs is).draws = s.draws := rfl

@[simp] theorem State.withAnswers_cfg (ws : List WriteResult) (rs : List ReadResult) : (s.withAnswers ws rs).cfg = s.cfg := rfl
@[simp] theorem State.withAnswers_status (ws : List WriteResult) (rs : List ReadResult) : (s.withAnswers ws rs).status = s.status := rfl
@[simp] theorem State.withAnswers_stvalid (ws : List WriteResult) (rs : List ReadResult) : (s.withAnswers ws rs).stvalid = s.stvalid := rfl
@[simp] theorem State.withAnswers_lc (ws : List WriteResult) (rs : List ReadResult) : (s.withAnswers ws rs).lc = s.lc := rfl
@[simp] theorem State.withAnswers_params (ws : List WriteResult) (rs : List ReadResult) : (s.withAnswers ws rs).params = s.params := rfl
@[simp] theorem State.withAnswers_inputs (ws : List WriteResult) (rs : List ReadResult) : (s.withAnswers ws rs).inputs = s.inputs := rfl
@[simp] theorem State.withAnswers_responses (ws : List WriteResult) (rs : List ReadResult) : (s.withAnswers ws rs).responses = s.responses := rfl
@[simp] theorem State.withAnswers_history (ws : List WriteResult) (rs : List ReadResult) : (s.withAnswers ws rs).history = s.history := rfl
@[simp] theorem State.withAnswers_writeAnswers (ws : List WriteResult) (rs : List ReadResult) : (s.withAnswers ws rs).writeAnswers = ws := rfl
@[simp] theorem State.withAnswers_readAnswers (ws : List WriteResult) (rs : List ReadResult) : (s.withAnswers ws rs).readAnswers = rs := rfl
@[simp] theorem State.withAnswers_draws (ws : List WriteResult) (rs : List ReadResult) : (s.withAnswers ws rs).draws = s.draws := rfl

@[simp] theorem State.respond_cfg (r : Response) : (s.respond r).cfg = s.cfg := rfl
@[simp] theorem State.respond_status (r : Response) : (s.respond r).status = s.status := rfl
@[simp] theorem State.respond_stvalid (r : Response) : (s.respond r).stvalid = s.stvalid := rfl
@[simp] theorem State.respond_lc (r : Response) : (s.respond r).lc = s.lc := rfl
@[simp] theorem State.respond_params (r : Response) : (s.respond r).params = s.params := rfl
@[simp] theorem State.respond_inputs (r : Response) : (s.respond r).inputs = s.inputs := rfl
@[simp] theorem State.respond_responses (r : Response) : (s.respond r).responses = s.responses ++ [r] := rfl
@[simp] theorem State.respond_history (r : Response) : (s.respond r).history = s.history := rfl
@[simp] theorem State.respond_writeAnswers (r : Response) : (s.respond r).writeAnswers = s.writeAnswers := rfl
@[simp] theorem State.respond_readAnswers (r : Response) : (s.respond r).readAnswers = s.readAnswers := rfl
@[simp] theorem State.respond_draws (r : Response) : (s.respond r).draws = s.draws := rfl

@[simp] theorem State.record_cfg (e : BusEvent) : (s.record e).cfg = s.cfg := rfl
@[simp] theorem State.record_status (e : BusEvent) : (s.record e).status = s.status := rfl
@[simp] theorem State.record_stvalid (e : BusEvent) : (s.record e).stvalid = s.stvalid := rfl
@[simp] theorem State.record_lc (e : BusEvent) : (s.record e).lc = s.lc := rfl
@[simp] theorem State.record_params (e : BusEvent) : (s.record e).params = s.params := rfl
@[simp] theorem State.record_inputs (e : BusEvent) : (s.record e).inputs = s.inputs := rfl
@[simp] theorem State.record_responses (e : BusEvent) : (s.record e).responses = s.responses := rfl
@[simp] theorem State.record_history (e : BusEvent) : (s.record e).history = s.history ++ [e] := rfl
@[simp] theorem State.record_writeAnswers (e : BusEvent) : (s.record e).writeAnswers = s.writeAnswers := rfl
@[simp] theorem State.record_readAnswers (e : BusEvent) : (s.record e).readAnswers = s.readAnswers := rfl
@[simp] theorem State.record_draws (e : BusEvent) : (s.record e).draws = s.draws := rfl

end

end Sys2Proof.Machine
end

