-- ==== Sys2Proof/Laws/Sync.lean ====
section
/-! SUPPORT. Everything the bus port, SYNC and a command can do, said once per operation. -/

namespace Sys2Proof.Machine

/-- A write draws a result from the bus agent and records the event; only the bus agent's side changes besides. -/
theorem memWrite_spec (addr : DevAddr) (img : Image) (s : State) :
    ∃ r ws n, memWrite addr img s =
      (r, { s with history := s.history ++ [.busWriteEv addr img r], writeAnswers := ws, draws := n }) := by
  unfold memWrite drawWrite
  cases h : s.writeAnswers with
  | nil => exact ⟨Config.freeWriteResult s.draws s.history addr img, s.writeAnswers, s.draws + 1, by
      simp [State.record, h]⟩
  | cons r ws => exact ⟨r, ws, s.draws, by simp [State.record]⟩

/-- A read draws a result from the bus agent and records the event; only the bus agent's side changes besides. -/
theorem memRead_spec (addr : DevAddr) (s : State) :
    ∃ r rs n, memRead addr s =
      (r, { s with history := s.history ++ [.busReadEv addr r], readAnswers := rs, draws := n }) := by
  unfold memRead drawRead
  cases h : s.readAnswers with
  | nil => exact ⟨Config.freeReadResult s.draws s.history addr, s.readAnswers, s.draws + 1, by
      simp [State.record, h]⟩
  | cons r rs => exact ⟨r, rs, s.draws, by simp [State.record]⟩

/-- The three ways the bus part of SYNC goes (R89 to R91), with everything each leaves. -/
theorem syncBus_cases (s : State) :
    (∃ e ws n, syncBus s = (.transport .write e,
      { s with
        history := s.history ++ [.busWriteEv s.cfg.addr (writeImage s.params s.cfg) (.err e)],
        writeAnswers := ws, draws := n })) ∨
    (∃ e ws rs n, syncBus s = (.transport .read e,
      { s with
        history := s.history ++ [.busWriteEv s.cfg.addr (writeImage s.params s.cfg) .ok,
          .settleEv s.params.settleDelay, .busReadEv s.cfg.addr (.err e)],
        writeAnswers := ws, readAnswers := rs, draws := n })) ∨
    (∃ buf ws rs n, syncBus s = (.ok,
      { s with
        status := decodeStatus buf, stvalid := 1#1,
        history := s.history ++ [.busWriteEv s.cfg.addr (writeImage s.params s.cfg) .ok,
          .settleEv s.params.settleDelay, .busReadEv s.cfg.addr (.ok buf)],
        writeAnswers := ws, readAnswers := rs, draws := n })) := by
  obtain ⟨r, ws, n, hw⟩ := memWrite_spec s.cfg.addr (writeImage s.params s.cfg) s
  cases r with
  | err e => exact .inl ⟨e, ws, n, by simp [syncBus, hw]⟩
  | ok =>
    obtain ⟨q, rs, m, hr⟩ := memRead_spec s.cfg.addr
      (settle { s with
        history := s.history ++ [.busWriteEv s.cfg.addr (writeImage s.params s.cfg) .ok],
        writeAnswers := ws, draws := n })
    simp only [settle, State.record, List.append_assoc, List.cons_append, List.nil_append] at hr
    cases q with
    | err e =>
      exact .inr (.inl ⟨e, ws, rs, m, by
        simp [syncBus, hw, syncRead, settle, State.record, hr]⟩)
    | ok buf =>
      exact .inr (.inr ⟨buf, ws, rs, m, by
        simp [syncBus, hw, syncRead, settle, State.record, hr, decodeInto, State.withStatus, State.withStvalid]⟩)

/-- The accesses of a longer history. -/
@[simp] theorem busAccesses_append (h k : List BusEvent) :
    busAccesses (h ++ k) = busAccesses h ++ busAccesses k := List.filter_append h k

/-- The bus part of SYNC leaves `LC` alone. -/
theorem syncBus_lc (s : State) : (syncBus s).2.lc = s.lc := by
  rcases syncBus_cases s with ⟨_, _, _, h⟩ | ⟨_, _, _, _, h⟩ | ⟨_, _, _, _, h⟩ <;> rw [h]

/-- The bus part of SYNC gives no response itself. -/
theorem syncBus_responses (s : State) : (syncBus s).2.responses = s.responses := by
  rcases syncBus_cases s with ⟨_, _, _, h⟩ | ⟨_, _, _, _, h⟩ | ⟨_, _, _, _, h⟩ <;> rw [h]

end Sys2Proof.Machine
end

