-- ==== Sys2Proof/Laws/Exec.lean ====
section
/-! SUPPORT. What a command can do, said once for all six: it is turned away, or it is an INIT that skips SYNC, or
it runs SYNC, which goes one of three ways. Every step always goes on. -/

namespace Sys2Proof.Machine

/-- The configuration a command has written when its SYNC starts (40_commands.md rules R74 to R80). -/
def preSync : Instr → ConfigFile → ConfigFile
  | .init a7 imm bnd st sm nc hc, _ => initConfig a7 imm bnd st sm nc hc
  | .setf _, c => c
  | .chgf imm, c => chgfConfig imm c
  | .srch en dir imm, c => srchConfig en dir imm c
  | .mute en, c => muteConfig en c
  | .stby en, c => stbyConfig en c

/-- The configuration when SYNC step 1 is done: what every outcome of the command leaves (R92). -/
def syncedConfig (i : Instr) (c : ConfigFile) : ConfigFile := bandClamped (requestedFreq i c) (preSync i c)

/-- `STVALID` when SYNC starts: INIT has cleared it (R74). -/
def syncedStvalid (i : Instr) (s : State) : Bit := if i.isInit then 0#1 else s.stvalid

/-- `LC` after a SYNC that answered `r`: INIT leaves it READY or UNCONSTRUCTED, the others READY (R74). -/
def lcAfter (i : Instr) (r : Response) : Lifecycle :=
  if i.isInit = true ∧ r ≠ .ok then .unconstructed else .ready

theorem accepted_lc (i : Instr) (s : State) :
    accepted i s = true ↔ s.lc = if i.isInit then .unconstructed else .ready := by
  cases i <;> simp [accepted, Instr.isInit]

theorem lc_cases (s : State) : s.lc = .unconstructed ∨ s.lc = .ready := by
  cases s.lc <;> simp

theorem init_of_isInit {i : Instr} (h : i.isInit = true) :
    ∃ a7 imm bnd st sm nc hc, i = .init a7 imm bnd st sm nc hc := by
  cases i with
  | init a7 imm bnd st sm nc hc => exact ⟨a7, imm, bnd, st, sm, nc, hc, rfl⟩
  | _ => simp [Instr.isInit] at h

/-- A command the lifecycle turns away: the response and nothing else (R73, R107). -/
theorem exec_turned_away {i : Instr} {s : State} (h : accepted i s = false) :
    exec i s = .next (s.respond
      (.illegal (if i.isInit then .alreadyConstructed else .notConstructed) (encode i))) := by
  have hl : s.lc ≠ if i.isInit then .unconstructed else .ready := by
    rw [Ne, ← accepted_lc, h]; simp
  cases i with
  | init a7 imm bnd st sm nc hc =>
    have : s.lc = .ready := (lc_cases s).resolve_left (by simpa [Instr.isInit] using hl)
    simp [exec, execInit, this, raiseIllegal, Instr.isInit]
  | _ =>
    have : s.lc = .unconstructed := (lc_cases s).resolve_right (by simpa [Instr.isInit] using hl)
    simp [exec, execSetf, execChgf, execSrch, execMute, execStby, whenReady, this, raiseIllegal, Instr.isInit]

/-- An accepted INIT that skips its SYNC (R15, R74). -/
theorem exec_skips {i : Instr} {s : State} (ha : accepted i s = true) (hk : skipsSync i s = true) :
    exec i s = .next { s with
      cfg := preSync i s.cfg, stvalid := 0#1, lc := .ready, responses := s.responses ++ [.ok] } := by
  cases i with
  | init a7 imm bnd st sm nc hc =>
    have : s.lc = .unconstructed := by simpa [accepted] using ha
    have hk' : initSkipsSync s.params imm = true := by simpa [skipsSync, initSkipsSync] using hk
    simp [exec, execInit, initRun, this, hk', preSync, State.withCfg, State.withStvalid, State.withLc,
      State.respond]
  | _ => simp [skipsSync] at hk

/-- The two endings of a command, by its result. -/
theorem finish_syncBus {s : State} (hl : s.lc = .ready) :
    finish (syncBus s) =
      { (syncBus s).2 with lc := .ready, responses := s.responses ++ [(syncBus s).1] } := by
  rcases syncBus_cases s with ⟨_, _, _, h⟩ | ⟨_, _, _, _, h⟩ | ⟨_, _, _, _, h⟩ <;>
    simp [h, finish, State.respond, hl]

theorem initFinish_eq (r : Response × State) :
    initFinish r =
      { r.2 with lc := if r.1 = .ok then .ready else .unconstructed, responses := r.2.responses ++ [r.1] } := by
  obtain ⟨r, s⟩ := r
  cases r <;> simp [initFinish, State.withLc, State.respond]

/-- A command but INIT, on a constructed block. -/
theorem exec_ready {i : Instr} {s : State} (hl : s.lc = .ready) (hi : i.isInit = false) :
    exec i s = .next (finish (syncBus
      { s with cfg := syncedConfig i s.cfg, stvalid := syncedStvalid i s })) := by
  cases i with
  | init a7 imm bnd st sm nc hc => simp [Instr.isInit] at hi
  | _ =>
    simp [exec, execSetf, execChgf, execSrch, execMute, execStby, whenReady, hl, sync, syncedConfig,
      syncedStvalid, preSync, requestedFreq, Instr.isInit, syncStep1_eq_bandClamped, State.withCfg,
      chgfConfig, srchConfig, muteConfig, stbyConfig]

/-- A command that runs SYNC, as the bus part of SYNC from the synced configuration. -/
theorem exec_runs {i : Instr} {s : State} (h : runsSync i s = true) :
    exec i s = .next
      { (syncBus { s with cfg := syncedConfig i s.cfg, stvalid := syncedStvalid i s }).2 with
        lc := lcAfter i (syncBus { s with cfg := syncedConfig i s.cfg, stvalid := syncedStvalid i s }).1
        responses := s.responses ++
          [(syncBus { s with cfg := syncedConfig i s.cfg, stvalid := syncedStvalid i s }).1] } := by
  simp only [runsSync, Bool.and_eq_true, Bool.not_eq_true'] at h
  obtain ⟨ha, hk⟩ := h
  cases i with
  | init a7 imm bnd st sm nc hc =>
    have hl : s.lc = .unconstructed := by simpa [accepted] using ha
    have hk' : initSkipsSync s.params imm = false := by simpa [skipsSync, initSkipsSync] using hk
    simp [exec, execInit, initRun, hl, hk', sync, syncedConfig, syncedStvalid, preSync, requestedFreq,
      Instr.isInit, initFinish_eq, syncStep1_eq_bandClamped, State.withCfg, State.withStvalid, lcAfter,
      syncBus_responses]
  | _ =>
    have hl : s.lc = .ready := by simpa [accepted] using ha
    exact (exec_ready hl rfl).trans (congrArg Host.Outcome.next (finish_syncBus (by exact hl)))

/-- The three ways a command that runs SYNC goes, with everything each leaves (R89 to R92, R109). -/
theorem exec_runs_cases {i : Instr} {s : State} (h : runsSync i s = true) :
    (∃ e ws n, exec i s = .next
      { s with
        cfg := syncedConfig i s.cfg, stvalid := syncedStvalid i s,
        lc := lcAfter i (.transport .write e), responses := s.responses ++ [.transport .write e],
        history := s.history ++
          [.busWriteEv (syncedConfig i s.cfg).addr (writeImage s.params (syncedConfig i s.cfg)) (.err e)],
        writeAnswers := ws, draws := n }) ∨
    (∃ e ws rs n, exec i s = .next
      { s with
        cfg := syncedConfig i s.cfg, stvalid := syncedStvalid i s,
        lc := lcAfter i (.transport .read e), responses := s.responses ++ [.transport .read e],
        history := s.history ++
          [.busWriteEv (syncedConfig i s.cfg).addr (writeImage s.params (syncedConfig i s.cfg)) .ok,
           .settleEv s.params.settleDelay, .busReadEv (syncedConfig i s.cfg).addr (.err e)],
        writeAnswers := ws, readAnswers := rs, draws := n }) ∨
    (∃ buf ws rs n, exec i s = .next
      { s with
        cfg := syncedConfig i s.cfg, status := decodeStatus buf, stvalid := 1#1,
        lc := .ready, responses := s.responses ++ [.ok],
        history := s.history ++
          [.busWriteEv (syncedConfig i s.cfg).addr (writeImage s.params (syncedConfig i s.cfg)) .ok,
           .settleEv s.params.settleDelay, .busReadEv (syncedConfig i s.cfg).addr (.ok buf)],
        writeAnswers := ws, readAnswers := rs, draws := n }) := by
  rw [exec_runs h]
  rcases syncBus_cases { s with cfg := syncedConfig i s.cfg, stvalid := syncedStvalid i s } with
    ⟨e, ws, n, hb⟩ | ⟨e, ws, rs, n, hb⟩ | ⟨buf, ws, rs, n, hb⟩
  · exact .inl ⟨e, ws, n, by simp [hb]⟩
  · exact .inr (.inl ⟨e, ws, rs, n, by simp [hb]⟩)
  · exact .inr (.inr ⟨buf, ws, rs, n, by simp [hb, lcAfter]⟩)

/-- Every command is turned away, skips SYNC or runs it. -/
theorem exec_kinds (i : Instr) (s : State) :
    accepted i s = false ∨ (accepted i s = true ∧ skipsSync i s = true) ∨ runsSync i s = true := by
  cases ha : accepted i s <;> cases hk : skipsSync i s <;> simp [runsSync, ha, hk]

/-- A command always goes on. -/
theorem exec_goes_on (i : Instr) (s : State) : ∃ t, exec i s = .next t := by
  rcases exec_kinds i s with h | ⟨ha, hk⟩ | h
  · exact ⟨_, exec_turned_away h⟩
  · exact ⟨_, exec_skips ha hk⟩
  · exact ⟨_, exec_runs h⟩

/-- What the synced configuration is made of. -/
@[simp] theorem bandClamped_addr (fin : Int) (c : ConfigFile) : (bandClamped fin c).addr = c.addr := by
  unfold bandClamped; split <;> rfl

@[simp] theorem bandClamped_mute (fin : Int) (c : ConfigFile) : (bandClamped fin c).mute = c.mute := by
  unfold bandClamped; split <;> rfl

@[simp] theorem bandClamped_stby (fin : Int) (c : ConfigFile) : (bandClamped fin c).stby = c.stby := by
  unfold bandClamped; split <;> rfl

@[simp] theorem bandClamped_stereo (fin : Int) (c : ConfigFile) : (bandClamped fin c).stereo = c.stereo := by
  unfold bandClamped; split <;> rfl

@[simp] theorem bandClamped_smute (fin : Int) (c : ConfigFile) : (bandClamped fin c).smute = c.smute := by
  unfold bandClamped; split <;> rfl

@[simp] theorem bandClamped_hcc (fin : Int) (c : ConfigFile) : (bandClamped fin c).hcc = c.hcc := by
  unfold bandClamped; split <;> rfl

@[simp] theorem bandClamped_snc (fin : Int) (c : ConfigFile) : (bandClamped fin c).snc = c.snc := by
  unfold bandClamped; split <;> rfl

@[simp] theorem bandClamped_srch (fin : Int) (c : ConfigFile) : (bandClamped fin c).srch = c.srch := by
  unfold bandClamped; split <;> rfl

@[simp] theorem bandClamped_sud (fin : Int) (c : ConfigFile) : (bandClamped fin c).sud = c.sud := by
  unfold bandClamped; split <;> rfl

@[simp] theorem bandClamped_ssl (fin : Int) (c : ConfigFile) : (bandClamped fin c).ssl = c.ssl := by
  unfold bandClamped; split <;> rfl

theorem bandClamped_band (fin : Int) (c : ConfigFile) :
    (bandClamped fin c).band = if c.band = 0b01#2 then 0b01#2 else 0b00#2 := by
  unfold bandClamped; split <;> simp_all

/-- The stored frequency is the clamped one: it fits s32 (R18). -/
theorem bandClamped_f (fin : Int) (c : ConfigFile) :
    (bandClamped fin c).f.toInt =
      if c.band = 0b01#2 then max 76000 (min 91000 fin) else max 87500 (min 108000 fin) := by
  have h : ∀ v : Int, 0 ≤ v → v ≤ 108000 → (BitVec.ofInt 32 v).toInt = v := by
    intro v h0 h1
    rw [BitVec.toInt_ofInt]
    simp only [Int.bmod]
    omega
  unfold bandClamped
  split <;> exact h _ (by omega) (by omega)

/-- SYNC step 1 leaves the band invariant (R39). -/
theorem bandClamped_inBand (fin : Int) (c : ConfigFile) : InBand (bandClamped fin c) := by
  rw [InBand, bandClamped_f, bandClamped_band]
  by_cases h : c.band = 0b01#2 <;> simp [h]

end Sys2Proof.Machine
end

