-- ==== Sys2Proof/Laws/PerInstr.lean ====
section
/-! SUPPORT. Statements about every instruction as syntax, one lemma per constructor. -/

namespace Sys2Proof.Laws.EncodedRow

/-- The encoded word agrees with the row's match under the row's mask (30_encoding.md rule R67). -/
def Statement (i : Instr) : Prop := encode i &&& i.opcode.mask = i.opcode.matchBits

theorem init (a7 : DevAddr) (imm : Int) (bnd : BitVec 2) (st sm nc hc : Bit) :
    Statement (.init a7 imm bnd st sm nc hc) := by
  unfold Statement
  refine BitVec.eq_of_getLsbD_eq fun k hk => ?_
  simp only [encode, wordOf, Instr.opcode, Opcode.mask, Opcode.matchBits, BitVec.getLsbD_and,
    BitVec.getLsbD_append]
  interval_cases k <;> simp

theorem setf (imm : Int) : Statement (.setf imm) := by
  unfold Statement
  refine BitVec.eq_of_getLsbD_eq fun k hk => ?_
  simp only [encode, wordOf, Instr.opcode, Opcode.mask, Opcode.matchBits, BitVec.getLsbD_and,
    BitVec.getLsbD_append]
  interval_cases k <;> simp

theorem chgf (imm : Int) : Statement (.chgf imm) := by
  unfold Statement
  refine BitVec.eq_of_getLsbD_eq fun k hk => ?_
  simp only [encode, wordOf, Instr.opcode, Opcode.mask, Opcode.matchBits, BitVec.getLsbD_and,
    BitVec.getLsbD_append]
  interval_cases k <;> simp

theorem srch (en dir : Bit) (imm : Int) : Statement (.srch en dir imm) := by
  unfold Statement
  refine BitVec.eq_of_getLsbD_eq fun k hk => ?_
  simp only [encode, wordOf, Instr.opcode, Opcode.mask, Opcode.matchBits, BitVec.getLsbD_and,
    BitVec.getLsbD_append]
  interval_cases k <;> simp

theorem mute (en : Bit) : Statement (.mute en) := by
  unfold Statement
  refine BitVec.eq_of_getLsbD_eq fun k hk => ?_
  simp only [encode, wordOf, Instr.opcode, Opcode.mask, Opcode.matchBits, BitVec.getLsbD_and,
    BitVec.getLsbD_append]
  interval_cases k <;> simp

theorem stby (en : Bit) : Statement (.stby en) := by
  unfold Statement
  refine BitVec.eq_of_getLsbD_eq fun k hk => ?_
  simp only [encode, wordOf, Instr.opcode, Opcode.mask, Opcode.matchBits, BitVec.getLsbD_and,
    BitVec.getLsbD_append]
  interval_cases k <;> simp

end Sys2Proof.Laws.EncodedRow
end

