-- ==== Sys2Proof/Laws/Step.lean ====
section
/-! SUPPORT. What a step can do, said once. -/

namespace Sys2Proof.Machine

/-- The four kinds of step. -/
theorem step_cases {s t : State} (h : step s = .next t) :
    (s.inputs = [] ∧ t = s) ∨
    (∃ rest, s.inputs = .reset :: rest ∧ t = hardwareReset (s.withInputs rest)) ∨
    (∃ cmd rest cause, s.inputs = .command cmd :: rest ∧ decode cmd = .error cause ∧
      t = raiseIllegal cause cmd (s.withInputs rest)) ∨
    (∃ cmd rest i, s.inputs = .command cmd :: rest ∧ decode cmd = .ok i ∧
      exec i (s.withInputs rest) = .next t) := by
  unfold step at h
  split at h
  · exact .inl ⟨‹_›, by simpa [idle] using h.symm⟩
  · exact .inr (.inl ⟨_, ‹_›, by simpa using h.symm⟩)
  · split at h
    · exact .inr (.inr (.inl ⟨_, _, _, ‹_›, ‹_›, by simpa using h.symm⟩))
    · exact .inr (.inr (.inr ⟨_, _, _, ‹_›, ‹_›, h⟩))

/-- A step on a command that decodes runs it (R73). -/
theorem step_command {s : State} {cmd : Command} {rest : List HostInput} {i : Instr}
    (hs : s.inputs = .command cmd :: rest) (hd : decode cmd = .ok i) : step s = exec i (s.withInputs rest) := by
  simp [step, hs, hd]

/-- A step on an illegal word answers `ILLEGAL` (R73). -/
theorem step_illegal {s : State} {cmd : Command} {rest : List HostInput} {cause : IllegalCause}
    (hs : s.inputs = .command cmd :: rest) (hd : decode cmd = .error cause) :
    step s = .next (raiseIllegal cause cmd (s.withInputs rest)) := by
  simp [step, hs, hd]

/-- A step on the reset input (R118). -/
theorem step_reset {s : State} {rest : List HostInput} (hs : s.inputs = .reset :: rest) :
    step s = .next (hardwareReset (s.withInputs rest)) := by
  simp [step, hs]

end Sys2Proof.Machine
end

