-- ==== Sys2Proof/Tests/Slice0.lean ====
section
/-! SUPPORT. Tests and witnesses. Every expected value is one of 95_test_vectors.md, named at the test, or is read
off the rule named there; nothing is the model's own answer. A `witness_X` shows values that meet the hypotheses
of the obligation `X`, at the ends of their ranges where the obligation has several clauses. -/

namespace Sys2Proof.Tests

open Sys2Proof.Machine

/-- An image from its bytes. -/
def img (b0 b1 b2 b3 b4 : Byte) : Image := { b0, b1, b2, b3, b4 }

/-- Two opaque bus errors. -/
def nack : BusError := ⟨1⟩
def timeout : BusError := ⟨2⟩

/-- The start configuration of L2.3 and L2.7: US, 106700, INIT defaults, flags 1. -/
def usCfg : ConfigFile :=
  { f := 106700#32, band := 0b00#2, mute := 0#1, stby := 0#1, stereo := 1#1, smute := 1#1, hcc := 1#1, snc := 1#1,
    srch := 0#1, sud := 1#1, ssl := 0b10#2, addr := 0x60#7 }

/-- The start state of L2.7 and L2.9: READY with valid status, read from an echo of 106.7 MHz (L2.8). -/
def ready : State :=
  { State.reset with
    cfg := usCfg, status := decodeStatus (img 0x32 0xFC 0x80 0x70 0), stvalid := 1#1, lc := .ready
    history := [.busWriteEv 0x60#7 (img 0x32 0xFC 0xD0 0x1E 0) .ok, .settleEv 1000,
      .busReadEv 0x60#7 (.ok (img 0x32 0xFC 0x80 0x70 0))] }

/-- `ready` in the JP band at its low limit. -/
def readyJP : State := ready.withCfg { usCfg with band := 0b01#2, f := 76000#32 }

/-- A state whose host issues the word next, with the bus's answers. -/
def asked (s : State) (cmd : Command) (ws : List WriteResult) (rs : List ReadResult) : State :=
  (s.withInputs [.command cmd]).withAnswers ws rs

/-- The state after a step; `none` where there is none. -/
def after (s : State) : Option State :=
  match step s with
  | .next t => some t
  | .fault _ => none
  | .refused _ => none

/-- The images written in a history, oldest first. -/
def written (t : State) : List Image :=
  t.history.filterMap (fun e => match e with | .busWriteEv _ w _ => some w | _ => none)

/-- What L2.7 lists of a command run on `ready` with a bus that answers `Ok`: `F`, `SUD`, the image. -/
def vector (cmd : Command) : Option (Int × Bit × Option Image × Response) :=
  (after (asked (ready.withStvalid 0#1) cmd [.ok] [.ok (img 0x40 0x1B 0x7F 0x0F 0xFF)])).bind (fun t =>
    t.responses.getLast?.map (fun r => (t.cfg.f.toInt, t.cfg.sud, (written t).getLast?, r)))

/-! WellFormed smoke: an ill-formed term for each check. -/

theorem test_wf_init : (Instr.init 0x60#7 2147483648 0b00#2 0#1 0#1 0#1 0#1).wf = false := by decide
theorem test_wf_setf : (Instr.setf (-2147483649)).wf = false := by decide
theorem test_wf_chgf : (Instr.chgf 2147483648).wf = false := by decide
theorem test_wf_srch : (Instr.srch 1#1 0#1 (-2147483649)).wf = false := by decide

/-! Decoding (L2.5, L2.6): every command, with each operand told apart from its neighbours. -/

theorem test_decode_init :
    decode 0x1000604400015F90#64 = .ok (.init 0x60#7 90000 0b01#2 1#1 0#1 0#1 0#1) ∧
    decode 0x100060C400013880#64 = .ok (.init 0x60#7 80000 0b11#2 1#1 0#1 0#1 0#1) ∧
    decode 0x10007F40000128E0#64 = .ok (.init 0x7F#7 76000 0b01#2 0#1 0#1 0#1 0#1) := by decide
/-- R65's bits 35, 36 and 37 one at a time: `SM`, `NC`, `HC`. -/
theorem test_decode_init_flags :
    decode 0b0001_0000000000000_0010001_00_0_0_1_0_0_0_00000000000000010101010111001100#64 =
      .ok (.init 0x11#7 87500 0b00#2 0#1 1#1 0#1 0#1) ∧
    decode 0b0001_0000000000000_0010001_00_0_1_0_0_0_0_00000000000000010101010111001100#64 =
      .ok (.init 0x11#7 87500 0b00#2 0#1 0#1 1#1 0#1) ∧
    decode 0b0001_0000000000000_0010001_00_1_0_0_0_0_0_00000000000000010101010111001100#64 =
      .ok (.init 0x11#7 87500 0b00#2 0#1 0#1 0#1 1#1) := by decide
theorem test_decode_setf :
    decode 0x2000000000017FFC#64 = .ok (.setf 98300) ∧
    decode 0x2000000080000000#64 = .ok (.setf (-2147483648)) := by decide
theorem test_decode_chgf :
    decode 0x30000000FFFFFF9C#64 = .ok (.chgf (-100)) ∧
    decode 0x3000000000001388#64 = .ok (.chgf 5000) := by decide
theorem test_decode_srch :
    decode 0x4000000100000006#64 = .ok (.srch 1#1 0#1 6) ∧
    decode 0x40000002FFFFFFFF#64 = .ok (.srch 0#1 1#1 (-1)) := by decide
theorem test_decode_mute :
    decode 0x5000000100000000#64 = .ok (.mute 1#1) ∧ decode 0x5000000000000000#64 = .ok (.mute 0#1) := by decide
theorem test_decode_stby :
    decode 0x6000000100000000#64 = .ok (.stby 1#1) ∧ decode 0x6000000000000000#64 = .ok (.stby 0#1) := by decide
theorem test_decode_reserved_opcode :
    decode 0x0000000000000000#64 = .error .opcode ∧ decode 0x7000000000000000#64 = .error .opcode ∧
    decode 0xF000000000000000#64 = .error .opcode ∧ decode 0x7FFFFFFFFFFFFFFF#64 = .error .opcode := by decide
theorem test_decode_reserved_bits :
    decode 0x1004600400017FFC#64 = .error .reservedBits ∧ decode 0x1000600500000000#64 = .error .reservedBits ∧
    decode 0x1000600600000000#64 = .error .reservedBits ∧ decode 0x2000000100017FFC#64 = .error .reservedBits ∧
    decode 0x4000000400000007#64 = .error .reservedBits ∧ decode 0x5000000100000001#64 = .error .reservedBits ∧
    decode 0x6000000200000000#64 = .error .reservedBits := by decide
/-- Row 0 of the table, as the host asks for it. -/
theorem test_table_word :
    decodeTableWord 64 0x1000603C0001A0CC = some (.init 0x60#7 106700 0b00#2 1#1 1#1 1#1 1#1) ∧
    decodeTableWord 64 0x7000000000000000 = none := by decide

/-! The assembler (L2.5). -/

theorem test_assemble_pseudo :
    assembleText "INIT 106700, US, 1, 1, 1, 1".toList = some (some 0x1000603C0001A0CC#64) ∧
    assembleText "SRCH 1, UP".toList = some (some 0x4000000300000007#64) := by decide
theorem test_assemble_full :
    assembleText "INIT 0x60, 98300, B2, 1, 0, 0, 0 ; R71".toList = some (some 0x1000608400017FFC#64) ∧
    assembleText "SRCH 0, UP, -1".toList = some (some 0x40000002FFFFFFFF#64) := by decide
/-- Out of range is an assembly error, never a truncation (R70); a comment alone is no command. -/
theorem test_assemble_errors :
    assembleText "SETF 2147483648".toList = none ∧ assembleText "MUTE 2".toList = none ∧
    assembleText "INIT 128, 0, US, 0, 0, 0, 0".toList = none ∧ assembleText " ; note".toList = some none := by decide

/-! The steps, at most two a command. -/

/-- P1 step 1 and L1.6. -/
theorem test_init_sync :
    (after (asked State.reset 0x1000603C0001A0CC#64 [.ok] [.ok (img 0x92 0x34 0x80 0xA0 0)])).map
      (fun t => ((t.cfg, t.status, t.stvalid), t.lc, t.history, t.responses)) =
    some ((usCfg, { rdy := 1#1, obsf := 379#12, stdet := 1#1, lev := 10#4 }, 1#1), .ready,
      [.busWriteEv 0x60#7 (img 0x32 0xFC 0xD0 0x1E 0) .ok, .settleEv 1000,
       .busReadEv 0x60#7 (.ok (img 0x92 0x34 0x80 0xA0 0))], [.ok]) := by decide
/-- P5 step 3: no instance after a failing read. -/
theorem test_init_fails :
    (after (asked State.reset 0x1000603C0001A0CC#64 [.ok] [.err timeout])).map
      (fun t => (t.lc, t.responses, observe .addr t)) =
    some (.unconstructed, [.transport .read timeout], .error .obsNotConstructed) := by decide
/-- P4 step 1: the operands as given, no bus access. -/
theorem test_init_skips :
    (after { asked State.reset 0x100060C000000000#64 [] [] with
        params := { Params.default with skipInitialSyncWhenZero := true } }).map
      (fun t => ((t.cfg.band, t.history, t.lc), observe .f t, observe .obsf t)) =
    some ((0b11#2, [], .ready), .ok (.num 0), .error .obsStatusNotValid) := by decide
/-- L2.7. -/
theorem test_setf : vector 0x2000000000017FFC#64 = some (98300, 1#1, some (img 0x2E 0xFB 0xD0 0x1E 0), .ok) := by
  decide
/-- L2.9: the clamped value is kept after a failed write. -/
theorem test_setf_write_error :
    (after (asked ready 0x20000000000249F0#64 [.err nack] [])).map
      (fun t => (t.cfg.f.toInt, t.status, t.responses)) =
    some (108000, ready.status, [.transport .write nack]) := by decide
/-- L2.7: the exact sum, not one that wraps. -/
theorem test_chgf_exact :
    vector 0x3000000080000000#64 = some (87500, 0#1, some (img 0x29 0xD5 0x50 0x1E 0), .ok) := by decide
/-- L2.7: a delta of 0 leaves Up. -/
theorem test_chgf_zero :
    vector 0x3000000000000000#64 = some (106700, 1#1, some (img 0x32 0xFC 0xD0 0x1E 0), .ok) := by decide
/-- L2.7. -/
theorem test_srch : vector 0x4000000000000005#64 = some (106700, 0#1, some (img 0x32 0xFC 0x30 0x1E 0), .ok) := by
  decide
/-- L1.3: 6 is no legal level, 10 is. -/
theorem test_srch_snap :
    vector 0x4000000300000006#64 = some (106700, 1#1, some (img 0x72 0xFC 0xD0 0x1E 0), .ok) ∧
    vector 0x400000030000000A#64 = some (106700, 1#1, some (img 0x72 0xFC 0xF0 0x1E 0), .ok) := by decide
/-- L2.7. -/
theorem test_mute : vector 0x5000000100000000#64 = some (106700, 1#1, some (img 0xB2 0xFC 0xD0 0x1E 0), .ok) := by
  decide
/-- L2.9: the bit is kept, the status unchanged. -/
theorem test_mute_read_error :
    (after (asked ready 0x5000000100000000#64 [.ok] [.err timeout])).map
      (fun t => (t.cfg.mute, t.status, t.responses.map responseCode)) =
    some (1#1, ready.status, [6]) := by decide
/-- L2.7. -/
theorem test_stby : vector 0x6000000100000000#64 = some (106700, 1#1, some (img 0x32 0xFC 0xD0 0x5E 0), .ok) := by
  decide
/-- L2.6: lifecycle and reserved bits, each with no bus access. -/
theorem test_illegal :
    (after (asked State.reset 0x2000000000017FFC#64 [] [])).map (fun t => (t.responses, t.history)) =
      some ([.illegal .notConstructed 0x2000000000017FFC#64], []) ∧
    (after (asked State.reset 0x2000000100017FFC#64 [] [])).map (fun t => (t.responses, t.history)) =
      some ([.illegal .reservedBits 0x2000000100017FFC#64], []) ∧
    (after (asked ready 0x1000603C0001A0CC#64 [] [])).map (fun t => (t.responses, t.cfg)) =
      some ([.illegal .alreadyConstructed 0x1000603C0001A0CC#64], usCfg) := by decide
/-- L2.10. -/
theorem test_reset_observation :
    observe .lc State.reset = .ok (.lifecycle .unconstructed) ∧ observe .stvalid State.reset = .ok (.num 0) ∧
    observe .f State.reset = .error .obsNotConstructed ∧ observe .obsf State.reset = .error .obsStatusNotValid := by
  decide
/-- R118: the reset input leaves no instance, and touches no bus. -/
theorem test_reset_input :
    (after (ready.withInputs [.reset])).map (fun t => (t.lc, t.stvalid, t.history, t.inputs)) =
      some (.unconstructed, 0#1, ready.history, []) := by decide
/-- The word placed for the host's probe is the one the next step runs. -/
theorem test_fetch_word :
    (after (State.reset.withFetchWord 64 0x7000000000000000)).map (fun t => t.responses) =
      some [.illegal .opcode 0x7000000000000000#64] := by decide

/-! Arithmetic and packing (L2.1 to L2.4, L2.8). -/

theorem test_quant :
    quant .halfEven 76000 = 9305 ∧ quant .halfEven 87500 = 10709 ∧ quant .halfEven 108000 = 13211 ∧
    quant .halfEven 76063 = 9312 ∧ quant .halfUp 76063 = 9313 ∧ quant .halfEven 77087 = 9438 ∧
    quant .halfEven 76064 = 9313 := by decide
theorem test_dequant :
    dequant 9 = -2 ∧ dequant 10 = -1 ∧ dequant 21 = -1 ∧ dequant 22 = 0 ∧ dequant 33 = 0 ∧ dequant 34 = 1 ∧
    dequant 13211 = 1080 ∧ dequant 16383 = 1340 := by decide
theorem test_clamp :
    (syncStep1 75999 readyJP.cfg).f = 76000#32 ∧ (syncStep1 91001 readyJP.cfg).f = 91000#32 ∧
    (syncStep1 87499 usCfg).f = 87500#32 ∧ (syncStep1 108001 usCfg).f = 108000#32 ∧
    syncStep1 80000 { usCfg with band := 0b11#2 } = { usCfg with f := 87500#32 } := by decide
/-- L2.3's "other images": every bit of the layout at the value the base image has not. -/
theorem test_pack :
    writeImage Params.default { usCfg with
      band := 0b01#2, f := 76000#32, mute := 1#1, stby := 1#1, srch := 1#1, stereo := 0#1, smute := 0#1,
      snc := 0#1, hcc := 0#1, sud := 0#1, ssl := 0b11#2 } = img 0xE4 0x59 0x78 0x70 0 := by decide
theorem test_pack_flags :
    (writeImage Params.default { usCfg with smute := 0#1 }).b3 = 0x16#8 ∧
    (writeImage Params.default { usCfg with hcc := 0#1 }).b3 = 0x1A#8 ∧
    (writeImage Params.default { usCfg with snc := 0#1 }).b3 = 0x1C#8 ∧
    (writeImage { Params.default with stereoPolarity := .direct } usCfg).b2 = 0xD8#8 := by decide
theorem test_snap :
    snap 0 = 0b00#2 ∧ snap 5 = 0b01#2 ∧ snap 7 = 0b10#2 ∧ snap 10 = 0b11#2 ∧ snap 1 = 0b10#2 ∧ snap 9 = 0b10#2 ∧
    snap 11 = 0b10#2 ∧ snap (-1) = 0b10#2 := by decide
theorem test_decode_status :
    decodeStatus (img 0xFF 0xFF 0xFF 0xFF 0xFF) = { rdy := 1#1, obsf := 1340#12, stdet := 1#1, lev := 15#4 } ∧
    decodeStatus (img 0x40 0x1B 0x7F 0x0F 0xFF) = { rdy := 0#1, obsf := 0#12, stdet := 0#1, lev := 0#4 } ∧
    (decodeStatus (img 0 0 0 0 0)).obsf.toInt = -2 := by decide

/-! Witnesses of the hypotheses of the obligations. -/

/-- A step that answers a next state; the witnesses say so of their states. -/
def stepsOn (s : State) : Bool := (after s).isSome

/-- `ready` where nothing has been read yet. -/
def readyUnread : State := { ready with stvalid := 0#1, history := [] }

/-- An unconstructed state whose INIT skips SYNC for an operand that is not positive. -/
def resetSkipping : State := { State.reset with params := { Params.default with skipInitialSyncWhenZero := true } }

/-- An INIT with the frequency operand and band code given. -/
def initOf (imm : Int) (bnd : BitVec 2) : Instr := .init 0x60#7 imm bnd 1#1 1#1 1#1 1#1

theorem witness_DecodeOfEncode :
    (initOf (-2147483648) 0b11#2).WellFormed ∧ (Instr.setf 2147483647).WellFormed ∧
    (Instr.chgf (-2147483648)).WellFormed ∧ (Instr.srch 1#1 0#1 2147483647).WellFormed ∧
    (Instr.mute 1#1).WellFormed ∧ (Instr.stby 0#1).WellFormed := by decide

theorem witness_EncodeOfDecode : decode 0x40000002FFFFFFFF#64 = .ok (.srch 0#1 1#1 (-1)) := by decide

theorem witness_DecoderReadsTheTable :
    0x10007FFCFFFFFFFF#64 &&& 0xFFFF800300000000#64 = 0x1000000000000000#64 ∧
    0x20000000FFFFFFFF#64 &&& 0xFFFFFFFF00000000#64 = 0x2000000000000000#64 ∧
    0x30000000FFFFFFFF#64 &&& 0xFFFFFFFF00000000#64 = 0x3000000000000000#64 ∧
    0x40000003FFFFFFFF#64 &&& 0xFFFFFFFC00000000#64 = 0x4000000000000000#64 ∧
    0x5000000100000000#64 &&& 0xFFFFFFFEFFFFFFFF#64 = 0x5000000000000000#64 ∧
    0x6000000100000000#64 &&& 0xFFFFFFFEFFFFFFFF#64 = 0x6000000000000000#64 := by decide
/-- The last clause: a word that no row takes. -/
theorem witness_DecoderReadsTheTable_none :
    0x1004600400017FFC#64 &&& 0xFFFF800300000000#64 ≠ 0x1000000000000000#64 ∧
    0x1004600400017FFC#64 &&& 0xFFFFFFFF00000000#64 ≠ 0x2000000000000000#64 ∧
    0x1004600400017FFC#64 &&& 0xFFFFFFFF00000000#64 ≠ 0x3000000000000000#64 ∧
    0x1004600400017FFC#64 &&& 0xFFFFFFFC00000000#64 ≠ 0x4000000000000000#64 ∧
    0x1004600400017FFC#64 &&& 0xFFFFFFFEFFFFFFFF#64 ≠ 0x5000000000000000#64 ∧
    0x1004600400017FFC#64 &&& 0xFFFFFFFEFFFFFFFF#64 ≠ 0x6000000000000000#64 := by decide

/-- Each clause at the ends of the opcode ranges. -/
theorem witness_IllegalWordsByCause :
    decode 0x0FFFFFFFFFFFFFFF#64 = .error .opcode ∧ decode 0x7000000000000000#64 = .error .opcode ∧
    decode 0x1000000100000000#64 = .error .reservedBits ∧ decode 0x6000000000000001#64 = .error .reservedBits := by
  decide

/-- The lines for themselves: neither pseudo-form. -/
theorem witness_PseudoFormsExpand :
    (⟨.init, List.replicate 7 (.int 0)⟩ : AsmLine).args.length ≠ 6 ∧
    (⟨.srch, List.replicate 3 (.int 0)⟩ : AsmLine).args.length ∉ [1, 2] := by decide

/-- Each operand at an end of its range. -/
theorem witness_InitLineAssemblesInRange :
    assemble ⟨.init, [.int 127, .int (-2147483648), .int 3, .int 1, .int 0, .int 1, .int 0]⟩ =
      some (.init 0x7F#7 (-2147483648) 0b11#2 1#1 0#1 1#1 0#1) := by decide

/-- The ends of the SRCH line's ranges, and the band names where a direction stands. -/
theorem witness_OperandNamesHaveTheirCodes :
    assemble ⟨.srch, [.int 1, .name .up, .int 2147483647]⟩ = some (.srch 1#1 1#1 2147483647) ∧
    assemble ⟨.srch, [.int 0, .name .down, .int (-2147483648)]⟩ = some (.srch 0#1 0#1 (-2147483648)) ∧
    AsmName.us ∈ [AsmName.us, .jp, .b2, .b3] ∧ AsmName.b3 ∈ [AsmName.us, .jp, .b2, .b3] := by decide

/-- One line a count of operands. -/
theorem witness_LinesAssembleInRange :
    (assemble ⟨.init, [.int 0, .name .jp, .int 0, .int 0, .int 0, .int 0]⟩).isSome = true ∧
    (assemble ⟨.init, List.replicate 7 (.int 0)⟩).isSome = true ∧ (assemble ⟨.srch, [.int 0]⟩).isSome = true ∧
    (assemble ⟨.srch, [.int 0, .name .up]⟩).isSome = true ∧
    (assemble ⟨.srch, [.int 0, .name .up, .int 9]⟩).isSome = true ∧
    (assemble ⟨.setf, [.int (-2147483648)]⟩).isSome = true ∧ (assemble ⟨.stby, [.int 1]⟩).isSome = true := by decide

theorem witness_AssembledLinesDecode : assemble ⟨.srch, [.int 1]⟩ = some (.srch 1#1 1#1 7) := by decide

theorem witness_StepRunsDecodedInstruction :
    (asked ready 0x5000000100000000#64 [] []).inputs = [.command 0x5000000100000000#64] ∧
    decode 0x5000000100000000#64 = .ok (.mute 1#1) := by decide

/-- One line a clause: an illegal word, INIT on READY, another on UNCONSTRUCTED, and both accepted ways. -/
theorem witness_CommandAcceptance :
    decode 0x7000000000000000#64 = .error .opcode ∧
    (decode 0x1000603C0001A0CC#64 = .ok (initOf 106700 0b00#2) ∧ ready.lc = .ready) ∧
    (decode 0x2000000000017FFC#64 = .ok (.setf 98300) ∧ State.reset.lc = .unconstructed) ∧
    ((initOf 106700 0b00#2).isInit = true ↔ State.reset.lc = .unconstructed) ∧
    ((Instr.setf 98300).isInit = true ↔ ready.lc = .unconstructed) := by decide

theorem witness_LifecycleTurnsAway :
    ((initOf 0 0b00#2).isInit = true ∧ ready.lc = .ready) ∧
    ((Instr.stby 0#1).isInit = false ∧ State.reset.lc = .unconstructed) := by decide

theorem witness_OneResponsePerCommand :
    (asked ready 0x0#64 [] []).inputs = .command 0x0#64 :: [] ∧
    (∀ cmd rest, ready.inputs ≠ .command cmd :: rest) ∧
    (∀ cmd rest, (ready.withInputs [.reset]).inputs ≠ .command cmd :: rest) := by
  refine ⟨rfl, ?_, ?_⟩ <;> intro cmd rest h <;> simp [ready, State.reset, State.withInputs] at h

theorem witness_IllegalResponseChangesNothing :
    (asked ready 0x0#64 [] []).inputs = [.command 0x0#64] ∧
    (after (asked ready 0x0#64 [] [])).map (fun t => t.responses) =
      some ((asked ready 0x0#64 [] []).responses ++ [.illegal .opcode 0x0#64]) := by decide

/-- A command for each response code 0 to 6. -/
theorem witness_ResponseCodeSaysWhatHappened :
    (after (asked ready 0x5000000000000000#64 [.ok] [.ok (img 0 0 0 0 0)])).map (·.responses.map responseCode) =
      some [0] ∧
    (after (asked ready 0x0FFFFFFFFFFFFFFF#64 [] [])).map (·.responses.map responseCode) = some [1] ∧
    (after (asked ready 0x6000000000000001#64 [] [])).map (·.responses.map responseCode) = some [2] ∧
    (after (asked State.reset 0x2000000000000000#64 [] [])).map (·.responses.map responseCode) = some [3] ∧
    (after (asked ready 0x1000000000000000#64 [] [])).map (·.responses.map responseCode) = some [4] ∧
    (after (asked ready 0x6000000000000000#64 [.err nack] [])).map (·.responses.map responseCode) = some [5] ∧
    (after (asked ready 0x6000000000000000#64 [.ok] [.err nack])).map (·.responses.map responseCode) = some [6] := by
  decide

/-- Every command runs SYNC somewhere: INIT on an unconstructed block, the others on a constructed one. -/
theorem witness_SyncBusPhases :
    runsSync (initOf 1 0b01#2) resetSkipping = true ∧ runsSync (initOf (-5) 0b10#2) State.reset = true ∧
    runsSync (.setf 0) ready = true ∧ runsSync (.chgf 0) ready = true ∧ runsSync (.srch 1#1 1#1 7) ready = true ∧
    runsSync (.mute 1#1) ready = true ∧ runsSync (.stby 1#1) ready = true := by decide

theorem witness_BandCoercedBeforeClamp :
    (runsSync (.setf 80000) readyJP = true ∧ requestedBand (.setf 80000) readyJP.cfg = 0b01#2) ∧
    (runsSync (initOf 80000 0b11#2) State.reset = true ∧
      requestedBand (initOf 80000 0b11#2) State.reset.cfg ≠ 0b01#2) ∧
    (runsSync (.setf 80000) ready = true ∧ requestedBand (.setf 80000) ready.cfg ≠ 0b01#2) := by decide

/-- The limits of both bands, and the first kHz outside them. -/
theorem witness_FrequencyClampedToBand :
    (runsSync (.setf 75999) readyJP = true ∧ requestedFreq (.setf 75999) readyJP.cfg < 76000) ∧
    (runsSync (.setf 91001) readyJP = true ∧ 91000 < requestedFreq (.setf 91001) readyJP.cfg) ∧
    (runsSync (.chgf 15000) readyJP = true ∧ requestedFreq (.chgf 15000) readyJP.cfg = 91000) ∧
    (runsSync (.setf 87499) ready = true ∧ requestedFreq (.setf 87499) ready.cfg < 87500) ∧
    (runsSync (.chgf 1301) ready = true ∧ 108000 < requestedFreq (.chgf 1301) ready.cfg) ∧
    (runsSync (.chgf 1300) ready = true ∧ requestedFreq (.chgf 1300) ready.cfg = 108000) := by decide

theorem witness_SettleBetweenWriteAndRead :
    runsSync (.srch 0#1 0#1 0) ready = true ∧ runsSync (initOf 0 0b00#2) State.reset = true := by decide

theorem witness_BusAnswersAreTaken : runsSync (.mute 0#1) readyUnread = true := by decide

theorem witness_InvalidInputIsNoError :
    accepted (.srch 1#1 1#1 (-2147483648)) (ready.withAnswers [.ok] [.ok (img 0 0 0 0 0)]) = true ∧
    accepted (initOf 2147483647 0b11#2) (State.reset.withAnswers [.ok] [.ok (img 0 0 0 0 0)]) = true := by decide

theorem witness_FailedSyncRollsNothingBack :
    (runsSync (.chgf (-100)) ready = true ∧ (Instr.chgf (-100)).isInit = false) ∧
    (runsSync (initOf 106700 0b00#2) State.reset = true ∧ (initOf 106700 0b00#2).isInit = true) := by decide

theorem witness_InitConstructs :
    State.reset.lc = .unconstructed ∧ ¬ (State.reset.params.skipInitialSyncWhenZero = true ∧ (-1 : Int) ≤ 0) ∧
    resetSkipping.lc = .unconstructed ∧ ¬ (resetSkipping.params.skipInitialSyncWhenZero = true ∧ (1 : Int) ≤ 0) := by
  decide

theorem witness_InitialSyncOption :
    (State.reset.lc = .unconstructed ∧ State.reset.params.skipInitialSyncWhenZero = false) ∧
    (resetSkipping.lc = .unconstructed ∧ resetSkipping.params.skipInitialSyncWhenZero = true) ∧
    (0 : Int) < 1 ∧ (0 : Int) ≤ 0 := by decide

/-- The three columns of R119 and a failing INIT. -/
theorem witness_StateAfterInit :
    immInRange (-2147483648) = true ∧ immInRange 2147483647 = true ∧
    (after (asked State.reset (encode (initOf (-2147483648) 0b10#2)) [.ok] [.ok (img 0 0 0 0 0)])).map
      (fun t => (t.responses, t.cfg.f)) = some ([.ok], 87500#32) ∧
    (after (asked resetSkipping (encode (initOf (-2147483648) 0b10#2)) [] [])).map
      (fun t => (t.responses, t.cfg.f, t.history)) = some ([.ok], 0x80000000#32, []) ∧
    (after (asked State.reset (encode (initOf 2147483647 0b01#2)) [.err nack] [])).map (fun t => t.responses) =
      some [.transport .write nack] := by decide

/-- READY, for the result statements of SETF, CHGF, SRCH, MUTE and STBY. -/
theorem witness_SetfTunes : ready.lc = .ready := by decide
theorem witness_ChgfRetunes : readyJP.lc = .ready := by decide
theorem witness_SrchSetsSearch : readyUnread.lc = .ready := by decide
theorem witness_MuteSetsMute : ready.lc = .ready := by decide
theorem witness_StbySetsStandby : readyJP.lc = .ready := by decide

/-- Each register the matrix names, changed by a command it names: before and after. -/
theorem witness_WriteAccessMatrix :
    (after (asked ready 0x5000000100000000#64 [.ok] [.err nack])).map (fun t => (ready.cfg.mute, t.cfg.mute)) =
      some (0#1, 1#1) ∧
    (after (asked ready 0x6000000100000000#64 [.err nack] [])).map (fun t => (ready.cfg.stby, t.cfg.stby)) =
      some (0#1, 1#1) ∧
    (after (asked ready 0x3000000080000000#64 [.err nack] [])).map (fun t => (ready.cfg.sud, t.cfg.sud)) =
      some (1#1, 0#1) ∧
    (after (asked ready 0x4000000300000000#64 [.err nack] [])).map
      (fun t => ((ready.cfg.srch, t.cfg.srch), ready.cfg.ssl, t.cfg.ssl)) = some ((0#1, 1#1), 0b10#2, 0b00#2) := by
  decide
theorem witness_WriteAccessMatrix_init :
    (after (asked State.reset 0x10007FFC00000000#64 [.ok] [.ok (img 0x92 0x34 0x80 0xA0 0)])).map
      (fun t => ((State.reset.cfg.addr, t.cfg.addr), (State.reset.cfg.stereo, t.cfg.stereo), t.lc, t.status)) =
    some ((0#7, 0x7F#7), (0#1, 1#1), .ready, { rdy := 1#1, obsf := 379#12, stdet := 1#1, lev := 10#4 }) := by decide

theorem witness_ConstructedUntilReset :
    let s := asked ready 0x5000000100000000#64 [.err nack] []
    s.lc = .ready ∧ s.inputs.head? ≠ some .reset ∧ stepsOn s = true := by decide

theorem witness_StereoBitPolarity :
    Params.default.stereoPolarity = .inverted ∧
    ({ Params.default with stereoPolarity := .direct } : Params).stereoPolarity = .direct := by decide

/-- The four limits of the two bands. -/
theorem witness_PllWordRange :
    InBand readyJP.cfg ∧ InBand { usCfg with band := 0b01#2, f := 91000#32 } ∧ InBand { usCfg with f := 87500#32 } ∧
    InBand { usCfg with f := 108000#32 } := by decide

theorem witness_QuantIsNearest : 2 * |8192 * 13052 - (1000 * 106700 + 225000 : Int)| < 8192 := by decide

theorem witness_QuantTies : (76063 : Int) % 1024 = 287 ∧ (107807 : Int) % 1024 = 287 ∧ (76064 : Int) % 1024 ≠ 287 := by
  decide

theorem witness_WriteImageProperties :
    Params.default.stereoPolarity = resetSkipping.params.stereoPolarity ∧
    Params.default.tieRule = resetSkipping.params.tieRule ∧ Params.default ≠ resetSkipping.params ∧
    usCfg.band = 0b00#2 ∧ InBand usCfg ∧ InBand readyJP.cfg := by decide

/-- The four legal levels and their neighbours. -/
theorem witness_ThresholdSnapping :
    (0 : Int) ∈ [0, 5, 7, 10] ∧ (10 : Int) ∈ [0, 5, 7, 10] ∧ (11 : Int) ∉ [0, 5, 7, 10] ∧ (-1 : Int) ∉ [0, 5, 7, 10] ∧
    (6 : Int) ∉ [0, 5, 7, 10] := by decide

theorem witness_ObservedFrequencyIsNearest : (0 : Int) ≤ 16383 := by decide

/-- Both ends and the largest error (L1.1). -/
theorem witness_TuneReadRoundTrip :
    (76000 : Int) ≤ 76000 ∧ (76000 : Int) ≤ 82846 ∧ (82846 : Int) ≤ 108000 ∧ (108000 : Int) ≤ 108000 ∧
    (108000 : Int) % 100 = 0 := by decide

theorem witness_BandInvariantUntilNextInit :
    let s := asked ready 0x30000000FFFFFF9C#64 [.err nack] []
    runsSync (.chgf (-100)) s = true ∧ InBand s.cfg ∧ stepsOn s = true ∧ s.inputs.head? ≠ some .reset ∧
    decode 0x30000000FFFFFF9C#64 = .ok (.chgf (-100)) ∧ (Instr.chgf (-100)).isInit = false := by decide

theorem witness_RegisterInvariantKept :
    let s := asked ready 0x200000007FFFFFFF#64 [.ok] [.err timeout]
    BandHeld s ∧ LifecycleHeld s ∧ s.lc = .ready ∧ stepsOn s = true := by decide
/-- The other ways the invariant holds: after an INIT that skipped SYNC, and with no instance. -/
theorem witness_RegisterInvariantKept_skipped :
    let s := { asked readyUnread 0x3000000000000064#64 [.ok] [.ok (img 0x80 0 0 0 0)] with
      params := resetSkipping.params, cfg := { usCfg with band := 0b11#2, f := 0#32 } }
    BandHeld s ∧ ¬ InBand s.cfg ∧ LifecycleHeld s ∧ stepsOn s = true ∧
    LifecycleHeld (ready.withInputs [.reset]) ∧ stepsOn (ready.withInputs [.reset]) = true := by decide

theorem witness_StatusIsLastSuccessfulRead :
    let s := asked ready 0x5000000100000000#64 [.ok] [.err timeout]
    StatusFresh s ∧ s.stvalid = 1#1 ∧ stepsOn s = true := by decide

theorem witness_BusHistoryStaysOrdered :
    let s := asked ready 0x5000000100000000#64 [.ok] [.ok (img 0 0 0 0 0)]
    historyOrdered s.history = true ∧ s.history ≠ [] ∧ stepsOn s = true := by decide

/-- Two different states that differ in unset registers only, constructed and not. -/
theorem witness_UnsetRegistersAreInvisible :
    let s := asked readyUnread 0x5000000100000000#64 [.err nack] []
    let t := { s with status := { rdy := 1#1, obsf := 5#12, stdet := 1#1, lev := 3#4 } }
    SameButUnset s t ∧ s ≠ t ∧
    SameButUnset State.reset (State.reset.withCfg usCfg) ∧ State.reset ≠ State.reset.withCfg usCfg := by
  refine ⟨⟨rfl, rfl, rfl, rfl, rfl, rfl, rfl, rfl, rfl, fun _ => rfl, by decide⟩, by decide,
    ⟨rfl, rfl, rfl, rfl, rfl, rfl, rfl, rfl, rfl, by decide, by decide⟩, by decide⟩

theorem witness_ObservationFaults :
    (RegName.f.file = .config ∧ State.reset.lc = .unconstructed) ∧ (RegName.addr.file = .config ∧ ready.lc = .ready) ∧
    (RegName.rdy.file = .status ∧ readyUnread.stvalid = 0#1) ∧
    (RegName.lev.file = .status ∧ ready.lc = .ready ∧ ready.stvalid = 1#1) ∧
    (RegName.lc.file = .bookkeeping ∧ RegName.stvalid.file = .bookkeeping) := by decide

theorem witness_ObservedValues : readyJP.lc = .ready ∧ ready.lc = .ready ∧ ready.stvalid = 1#1 := by decide

/-- L2.8's least `OBSF` and R118's unconstructed `LC`: signed, and readable without an instance. -/
theorem test_observe_signed :
    observe .obsf { ready with status := decodeStatus (img 0 0 0 0 0) } = .ok (.num (-2)) ∧
    observe .f { ready with cfg := { usCfg with f := 0xFFFFFFFF#32 } } = .ok (.num (-1)) := by decide

theorem witness_HardwareReset :
    RegName.f ≠ .lc ∧ RegName.f ≠ .stvalid ∧
    (ready.withInputs [.reset, .command 0x1000603C0001A0CC#64]).inputs =
      .reset :: [.command 0x1000603C0001A0CC#64] := by decide

theorem witness_ParametersAreFixed : stepsOn (asked ready 0x0#64 [] []) = true := by decide

end Sys2Proof.Tests
end

/-! Which INIT skips its SYNC (00_scope.md rule R15). -/

namespace Sys2Proof.Machine

/-- A command that runs SYNC adds a bus write to the history, whatever the bus answers. -/
theorem history_ne_of_runsSync {i : Instr} {s t : State} (h : runsSync i s = true)
    (ht : exec i s = .next t) : t.history ≠ s.history := by
  rcases exec_runs_cases h with ⟨e, ws, n, hx⟩ | ⟨e, ws, rs, n, hx⟩ | ⟨buf, ws, rs, n, hx⟩ <;>
  · obtain rfl := Host.Outcome.next.inj (hx.symm.trans ht)
    simp

section
variable {a7 : DevAddr} {imm : Int} {bnd : BitVec 2} {st sm nc hc : Bit} {s : State}

/-- R15: exactly the option together with an operand that is not above 0 keeps INIT from SYNC. -/
theorem skipsSync_init :
    skipsSync (.init a7 imm bnd st sm nc hc) s = true ↔
      s.params.skipInitialSyncWhenZero = true ∧ imm ≤ 0 := by
  simp [skipsSync]

theorem accepted_init (hl : s.lc = .unconstructed) :
    accepted (.init a7 imm bnd st sm nc hc) s = true := (accepted_lc _ s).2 hl

/-- The SYNC of an accepted INIT runs where R15 does not skip it. -/
theorem runsSync_init (hl : s.lc = .unconstructed)
    (h : ¬ (s.params.skipInitialSyncWhenZero = true ∧ imm ≤ 0)) :
    runsSync (.init a7 imm bnd st sm nc hc) s = true := by
  have hk : skipsSync (.init a7 imm bnd st sm nc hc) s ≠ true := mt skipsSync_init.1 h
  simpa [runsSync, accepted_init hl] using hk

end

/-- Settles O24: an INIT that R15 lets skip its SYNC has the next state of `exec_skips`; any other
runs SYNC, whose bus write lengthens the history. -/
theorem initialSyncOption : Obligations.InitialSyncOption := by
  refine ⟨rfl, fun a7 imm bnd st sm nc hc s hl => ?_⟩
  by_cases hskip : s.params.skipInitialSyncWhenZero = true ∧ imm ≤ 0
  · obtain ⟨hopt, himm⟩ := hskip
    refine ⟨_, exec_skips (accepted_init hl) (skipsSync_init.2 ⟨hopt, himm⟩), ?_, ?_, fun _ _ => rfl⟩
    · exact fun hoff => absurd (hopt.symm.trans hoff) (by decide)
    · exact fun _ hpos => absurd himm (not_le.2 hpos)
  · obtain ⟨t, ht⟩ := exec_goes_on (.init a7 imm bnd st sm nc hc) s
    have hbus : t.history ≠ s.history := history_ne_of_runsSync (runsSync_init hl hskip) ht
    exact ⟨t, ht, fun _ => hbus, fun _ _ => hbus, fun hopt himm => absurd ⟨hopt, himm⟩ hskip⟩

end Sys2Proof.Machine

/-! The band invariant (10_state.md rule R39): every SYNC brings it about, and no other command but an
accepted INIT writes the configuration. -/

namespace Sys2Proof.Machine

section
variable {i : Instr} {s t : State}

/-- Whatever the bus does, SYNC leaves the configuration its step 1 wrote (R92). -/
theorem cfg_of_runsSync (h : runsSync i s = true) (ht : exec i s = .next t) :
    t.cfg = syncedConfig i s.cfg := by
  rcases exec_runs_cases h with ⟨e, ws, n, hx⟩ | ⟨e, ws, rs, n, hx⟩ | ⟨buf, ws, rs, n, hx⟩ <;>
  · obtain rfl := Host.Outcome.next.inj (hx.symm.trans ht)
    rfl

theorem inBand_of_runsSync (h : runsSync i s = true) (ht : exec i s = .next t) : InBand t.cfg := by
  rw [cfg_of_runsSync h ht]
  exact bandClamped_inBand _ _

theorem cfg_of_turned_away (h : accepted i s = false) (ht : exec i s = .next t) : t.cfg = s.cfg := by
  obtain rfl := Host.Outcome.next.inj ((exec_turned_away h).symm.trans ht)
  rfl

theorem isInit_of_skipsSync (h : skipsSync i s = true) : i.isInit = true := by
  cases i with
  | init => rfl
  | _ => cases h

/-- Only an accepted INIT can take the configuration out of band. -/
theorem inBand_of_exec (hb : InBand s.cfg) (hinit : i.isInit = true → s.lc = .ready)
    (ht : exec i s = .next t) : InBand t.cfg := by
  rcases exec_kinds i s with hoff | ⟨ha, hk⟩ | hrun
  · rwa [cfg_of_turned_away hoff ht]
  · have hi : i.isInit = true := isInit_of_skipsSync hk
    have hl : s.lc = .unconstructed := by simpa [hi] using (accepted_lc i s).1 ha
    cases hl.symm.trans (hinit hi)
  · exact inBand_of_runsSync hrun ht

end

/-- Settles O45: a SYNC leaves its clamped configuration, and of the other steps only the reset and an
accepted INIT write the configuration. -/
theorem bandInvariantUntilNextInit : Obligations.BandInvariantUntilNextInit := by
  refine ⟨fun i s hrun => ?_, fun s t hb hstep hreset hinit => ?_⟩
  · obtain ⟨t, ht⟩ := exec_goes_on i s
    exact ⟨t, ht, inBand_of_runsSync hrun ht⟩
  · rcases step_cases hstep with ⟨_, rfl⟩ | ⟨rest, hin, _⟩ | ⟨cmd, rest, cause, _, _, rfl⟩ |
      ⟨cmd, rest, i, hin, hdec, hexec⟩
    · exact hb
    · exact absurd (by rw [hin]; rfl) hreset
    · exact hb
    · exact inBand_of_exec (s := s.withInputs rest) hb (hinit cmd rest i hin hdec) hexec

end Sys2Proof.Machine

/-! The decoder as the match and mask table of 30_encoding.md rule R67. -/

namespace Sys2Proof

theorem fieldOP_and (a b : Command) : fieldOP (a &&& b) = fieldOP a &&& fieldOP b :=
  BitVec.extractLsb'_and

/-- Every row's mask keeps the whole opcode field. -/
@[simp] theorem fieldOP_mask (op : Opcode) : fieldOP op.mask = BitVec.allOnes 4 := by
  cases op <;> rfl

@[simp] theorem ofBits_fieldOP_matchBits (op : Opcode) :
    Opcode.ofBits (fieldOP op.matchBits) = some op := by
  cases op <;> rfl

/-- A word that agrees with a row has the row's opcode, so that it agrees with no other row. -/
theorem fieldOP_of_match {cmd : Command} {op : Opcode} (h : cmd &&& op.mask = op.matchBits) :
    fieldOP cmd = fieldOP op.matchBits := by
  rw [← h, fieldOP_and, fieldOP_mask, BitVec.and_allOnes]

theorem decode_of_match (op : Opcode) {cmd : Command} (h : cmd &&& op.mask = op.matchBits) :
    decode cmd = .ok (op.read cmd) := by
  simp [decode, fieldOP_of_match h, h]

theorem decode_error_of_forall_not_match {cmd : Command}
    (h : ∀ op : Opcode, cmd &&& op.mask ≠ op.matchBits) : ∃ cause, decode cmd = .error cause := by
  cases hop : Opcode.ofBits (fieldOP cmd) with
  | none => exact ⟨.opcode, by simp [decode, hop]⟩
  | some op => exact ⟨.reservedBits, by simp [decode, hop, h op]⟩

/-- Settles O3: a row's match fixes the opcode, and with it the row that `decode` reads the fields by. -/
theorem decoderReadsTheTable : Obligations.DecoderReadsTheTable := by
  intro cmd
  refine ⟨decode_of_match .init, decode_of_match .setf, decode_of_match .chgf, decode_of_match .srch,
    decode_of_match .mute, decode_of_match .stby, fun hinit hsetf hchgf hsrch hmute hstby =>
    decode_error_of_forall_not_match fun op => ?_⟩
  cases op with
  | init => exact hinit
  | setf => exact hsetf
  | chgf => exact hchgf
  | srch => exact hsrch
  | mute => exact hmute
  | stby => exact hstby

end Sys2Proof

/-! The pseudo-forms of 30_encoding.md rule R71. -/

namespace Sys2Proof.Machine

/-- A line with no pseudo-form's mnemonic and operand count stands for itself. -/
theorem asmExpand_of_not_pseudo {l : AsmLine} (hinit : ¬ (l.op = .init ∧ l.args.length = 6))
    (hsrch : ¬ (l.op = .srch ∧ l.args.length ∈ [1, 2])) : asmExpand l = l := by
  unfold asmExpand
  split
  case h_1 hop hargs => exact absurd ⟨hop, by simp [hargs]⟩ hinit
  case h_2 hop hargs => exact absurd ⟨hop, by simp [hargs]⟩ hsrch
  case h_3 hop hargs => exact absurd ⟨hop, by simp [hargs]⟩ hsrch
  case h_4 => rfl

/-- Settles O6: the pseudo-forms are the first three cases of `asmExpand`, and it leaves any other line
as it is. -/
theorem pseudoFormsExpand : Obligations.PseudoFormsExpand := by
  refine ⟨fun _ _ _ _ _ _ => rfl, fun _ => rfl, fun _ _ => rfl, fun l hinit hsrch => ?_⟩
  rw [assemble, asmExpand_of_not_pseudo hinit hsrch]

end Sys2Proof.Machine

/-! A legal word is the word its instruction encodes to (30_encoding.md section 4). -/

namespace Sys2Proof

/-- R67: of a word, a row's instruction keeps the bits the row's mask leaves free, and its encoding fills
in the row's match. -/
theorem encode_read (op : Opcode) (cmd : Command) :
    encode (op.read cmd) = op.matchBits ||| (~~~op.mask &&& cmd) := by
  refine BitVec.eq_of_getLsbD_eq fun k hk => ?_
  cases op <;>
  · simp only [Opcode.read, encode, wordOf, Opcode.mask, Opcode.matchBits, fieldA7, fieldBND, fieldHC,
      fieldNC, fieldSM, fieldST, fieldDIR, fieldEN, fieldImm, BitVec.ofInt_toInt, BitVec.getLsbD_append,
      BitVec.getLsbD_extractLsb', BitVec.getLsbD_or, BitVec.getLsbD_and, BitVec.getLsbD_not]
    interval_cases k <;> rfl

theorem encode_read_of_match {op : Opcode} {cmd : Command} (h : cmd &&& op.mask = op.matchBits) :
    encode (op.read cmd) = cmd := by
  rw [encode_read, ← h, BitVec.and_comm (~~~op.mask), ← BitVec.and_or_distrib_left, BitVec.or_not_self,
    BitVec.and_allOnes]

/-- A word decodes only by the row it agrees with. -/
theorem match_of_decode {cmd : Command} {i : Instr} (h : decode cmd = .ok i) :
    ∃ op : Opcode, cmd &&& op.mask = op.matchBits ∧ i = op.read cmd := by
  unfold decode at h
  split at h
  · cases h
  next op _ =>
    split at h
    next hmatch => exact ⟨op, hmatch, (Except.ok.inj h).symm⟩
    · cases h

theorem encode_of_decode {cmd : Command} {i : Instr} (h : decode cmd = .ok i) : encode i = cmd := by
  obtain ⟨op, hmatch, rfl⟩ := match_of_decode h
  exact encode_read_of_match hmatch

end Sys2Proof

/-! The acceptance steps of 40_commands.md rule R73. -/

namespace Sys2Proof.Machine

section
variable {i : Instr} {s : State}

/-- The lifecycle check as R73 puts it: INIT while UNCONSTRUCTED, any other command while READY. -/
theorem accepted_iff : accepted i s = true ↔ (i.isInit = true ↔ s.lc = .unconstructed) := by
  rw [accepted_lc]
  cases i.isInit <;> cases s.lc <;> decide

theorem exec_init_on_ready (hi : i.isInit = true) (hl : s.lc = .ready) :
    exec i s = .next (s.respond (.illegal .alreadyConstructed (encode i))) := by
  have hoff : accepted i s = false := by simp [← Bool.not_eq_true, accepted_iff, hi, hl]
  simpa [hi] using exec_turned_away hoff

theorem exec_other_on_unconstructed (hi : i.isInit = false) (hl : s.lc = .unconstructed) :
    exec i s = .next (s.respond (.illegal .notConstructed (encode i))) := by
  have hoff : accepted i s = false := by simp [← Bool.not_eq_true, accepted_iff, hi, hl]
  simpa [hi] using exec_turned_away hoff

/-- An accepted command completes with one response, `OK` or `TRANSPORT`. -/
theorem exec_accepted_responds (h : accepted i s = true) :
    ∃ t r, exec i s = .next t ∧ t.responses = s.responses ++ [r] ∧ r.isIllegal = false := by
  rcases exec_kinds i s with hoff | ⟨_, hskip⟩ | hrun
  · cases hoff.symm.trans h
  · exact ⟨_, .ok, exec_skips h hskip, rfl, rfl⟩
  · rcases exec_runs_cases hrun with ⟨e, _, _, hx⟩ | ⟨e, _, _, _, hx⟩ | ⟨_, _, _, _, hx⟩
    · exact ⟨_, .transport .write e, hx, rfl, rfl⟩
    · exact ⟨_, .transport .read e, hx, rfl, rfl⟩
    · exact ⟨_, .ok, hx, rfl, rfl⟩

end

/-- Settles O10: an illegal word is answered by the step, a word the lifecycle turns away by its
instruction, which encodes to that word, and any other word runs. -/
theorem commandAcceptance : Obligations.CommandAcceptance := by
  intro s cmd rest hin
  refine ⟨fun cause hdec => ?_, fun i hdec hi hl => ?_, fun i hdec hi hl => ?_, fun i hdec hacc => ?_⟩
  · exact step_illegal hin hdec
  · rw [step_command hin hdec, exec_init_on_ready (s := s.withInputs rest) hi hl, encode_of_decode hdec]
    rfl
  · rw [step_command hin hdec, exec_other_on_unconstructed (s := s.withInputs rest) hi hl,
      encode_of_decode hdec]
    rfl
  · have hstep : step s = exec i (s.withInputs rest) := step_command hin hdec
    rw [hstep]
    exact ⟨rfl, exec_accepted_responds (accepted_iff.2 hacc)⟩

end Sys2Proof.Machine

/-! The threshold codes (40_commands.md rule R78, 30_encoding.md rule R64). -/

namespace Sys2Proof.Machine

/-- R78's fallback: a level that R64 does not list gets the code of level 7. -/
theorem snap_of_not_legal {a : Int} (h : a ∉ [0, 5, 7, 10]) : snap a = snap 7 := by
  simp only [List.mem_cons, List.not_mem_nil, or_false, not_or] at h
  obtain ⟨h0, h5, h7, h10⟩ := h
  simp [snap, h0, h5, h7, h10]

theorem snap_levelOfCode (code : BitVec 2) : snap (levelOfCode code) = code := by
  decide +revert

theorem levelOfCode_snap {a : Int} (h : a ∈ [0, 5, 7, 10]) : levelOfCode (snap a) = a := by
  decide +revert

/-- Settles O39: the legal levels and the codes name each other, and any other level falls back. -/
theorem thresholdSnapping : Obligations.ThresholdSnapping := by
  refine ⟨fun a => ⟨?_, ?_, ?_, ?_, fun h0 h5 h7 h10 => ?_⟩, snap_levelOfCode, fun _ => levelOfCode_snap⟩
  · rintro rfl; rfl
  · rintro rfl; rfl
  · rintro rfl; rfl
  · rintro rfl; rfl
  · exact snap_of_not_legal (by simp [h0, h5, h7, h10])

end Sys2Proof.Machine

/-! The bits of the write image (30_encoding.md rules R58 to R62, 41_sync_encode.md rules R86 to R88). -/

namespace Sys2Proof.Machine

section
variable (p : Params) (c : ConfigFile) (w : PllWord) (k : Nat)

@[simp] theorem getElem_bit (b : Bool) : (bit b)[0] = b := by
  cases b <;> rfl

/-- The layout of write byte 0 (R58), bit 0 first. -/
theorem getLsbD_writeByte0 (hk : k < 8) :
    (writeByte0 c w).getLsbD k = [w[8], w[9], w[10], w[11], w[12], w[13], c.srch[0], c.mute[0]][k] := by
  simp only [writeByte0, freqH, BitVec.getLsbD_append, BitVec.getLsbD_extractLsb']
  interval_cases k <;> simp

/-- The layout of write byte 2 (R60), bit 0 first. -/
theorem getLsbD_writeByte2 (hk : k < 8) :
    (writeByte2 p c).getLsbD k =
      [false, false, false, (stereoBit p.stereoPolarity c.stereo)[0], true, c.ssl[0], c.ssl[1],
        c.sud[0]][k] := by
  simp only [writeByte2, BitVec.getLsbD_append]
  interval_cases k <;> simp

/-- The layout of write byte 3 (R61), bit 0 first. -/
theorem getLsbD_writeByte3 (hk : k < 8) :
    (writeByte3 c).getLsbD k =
      [false, c.snc[0], c.hcc[0], c.smute[0], true, decide (c.band = bandJP), c.stby[0], false][k] := by
  simp only [writeByte3, BitVec.getLsbD_append]
  interval_cases k <;> simp

end

/-- R87, INVERTED: the stereo bit is 1 for mono. -/
theorem stereoBit_inverted (stereo : Bit) : (stereoBit .inverted stereo)[0] = true ↔ stereo = 0#1 := by
  decide +revert

/-- R87, DIRECT: the stereo bit is 1 for stereo. -/
theorem stereoBit_direct (stereo : Bit) : (stereoBit .direct stereo)[0] = true ↔ stereo = 1#1 := by
  decide +revert

/-- Settles O33: bit 3 of write byte 2 is the stereo bit of the layout. -/
theorem stereoBitPolarity : Obligations.StereoBitPolarity := by
  refine ⟨rfl, fun p c => ?_⟩
  rw [writeImage_b2, getLsbD_writeByte2 _ _ _ (by decide)]
  refine ⟨fun hp => ?_, fun hp => ?_⟩
  · rw [hp]
    exact stereoBit_inverted c.stereo
  · rw [hp]
    exact stereoBit_direct c.stereo

section
variable (p : Params) (c : ConfigFile) (w : PllWord)

theorem writeByte0_eq_shifts :
    writeByte0 c w = (c.mute.setWidth 8 <<< 7) ||| (c.srch.setWidth 8 <<< 6) ||| (w >>> 8).setWidth 8 := by
  refine BitVec.eq_of_getLsbD_eq fun k hk => ?_
  rw [getLsbD_writeByte0 _ _ _ hk]
  interval_cases k <;> simp

theorem writeByte1_eq_masked : writeByte1 w = (w &&& 0xFF#14).setWidth 8 := by
  refine BitVec.eq_of_getLsbD_eq fun k hk => ?_
  rw [writeByte1, freqL]
  interval_cases k <;> simp

theorem writeByte2_eq_shifts :
    writeByte2 p c = (c.sud.setWidth 8 <<< 7) ||| (c.ssl.setWidth 8 <<< 5) ||| (1#8 <<< 4) |||
      ((stereoBit p.stereoPolarity c.stereo).setWidth 8 <<< 3) := by
  refine BitVec.eq_of_getLsbD_eq fun k hk => ?_
  rw [getLsbD_writeByte2 _ _ _ hk]
  interval_cases k <;> simp

theorem writeByte3_eq_shifts :
    writeByte3 c = (c.stby.setWidth 8 <<< 6) ||| ((if c.band = 0b01#2 then 1#8 else 0#8) <<< 5) |||
      (1#8 <<< 4) ||| (c.smute.setWidth 8 <<< 3) ||| (c.hcc.setWidth 8 <<< 2) |||
      (c.snc.setWidth 8 <<< 1) := by
  refine BitVec.eq_of_getLsbD_eq fun k hk => ?_
  rw [getLsbD_writeByte3 _ _ hk]
  by_cases hjp : c.band = 0b01#2 <;>
  · simp only [hjp, bandJP, if_true, if_false]
    interval_cases k <;> simp

end

/-- Settles O34: each byte agrees with its shifts and ors, bit for bit. -/
theorem packInShiftForm : Obligations.PackInShiftForm :=
  fun p c w => ⟨writeByte0_eq_shifts c w, writeByte1_eq_masked w, writeByte2_eq_shifts p c,
    writeByte3_eq_shifts c, rfl⟩

end Sys2Proof.Machine

/-! The PLL word in band (41_sync_encode.md rules R84 to R86). -/

namespace Sys2Proof.Machine

/-- QUANT is within half a step of the quotient (R84). -/
theorem quant_near (t : TieRule) (f : Int) :
    1000 * f + 225000 - 4096 ≤ 8192 * quant t f ∧ 8192 * quant t f ≤ 1000 * f + 225000 + 4096 := by
  obtain ⟨hlo, hhi⟩ := roundDiv_near (1000 * f + 225000) 8192 t (by decide)
  constructor <;> (unfold quant; omega)

/-- A quantized frequency below 2^14 needs no truncation (R85). -/
theorem toNat_pllWord {p : Params} {c : ConfigFile} (h0 : 0 ≤ quant p.tieRule c.f.toInt)
    (h1 : quant p.tieRule c.f.toInt < 16384) :
    ((pllWord p c).toNat : Int) = quant p.tieRule c.f.toInt := by
  rw [pllWord, BitVec.toNat_ofInt]
  omega

theorem toNat_freqH (w : PllWord) : (freqH w).toNat = w.toNat / 256 := by
  have := w.isLt
  simp only [freqH, BitVec.extractLsb'_toNat, Nat.shiftRight_eq_div_pow]
  omega

/-- Settles O35: each limit of a band is one of its word range, by `quant_near`. -/
theorem pllWordRange : Obligations.PllWordRange := by
  intro p c hband
  obtain ⟨hlo, hhi⟩ := quant_near p.tieRule c.f.toInt
  have hf : 76000 ≤ c.f.toInt ∧ c.f.toInt ≤ 108000 := by omega
  have hw : ((pllWord p c).toNat : Int) = quant p.tieRule c.f.toInt := toNat_pllWord (by omega) (by omega)
  rw [toNat_freqH]
  refine ⟨hw, by omega, by omega, fun hjp => ?_, fun hus => ?_, by omega, by omega⟩
  · obtain ⟨_, hflo, hfhi⟩ | ⟨hus, _, _⟩ := hband
    · omega
    · cases hjp.symm.trans hus
  · obtain ⟨hjp, _, _⟩ | ⟨_, hflo, hfhi⟩ := hband
    · cases hjp.symm.trans hus
    · omega

end Sys2Proof.Machine

/-! What each register changes in the write image (41_sync_encode.md rule R93). -/

namespace Sys2Proof.Machine

theorem stereoBit_not (pol : StereoPolarity) (st : Bit) : stereoBit pol (~~~st) = ~~~stereoBit pol st := by
  cases pol <;> decide +revert

section
variable (p : Params) (c : ConfigFile) (w : PllWord)

/-- R93: `MUTE` and `SRCH` are one bit each of write byte 0. -/
theorem writeByte0_not_flag :
    writeByte0 { c with mute := ~~~c.mute } w = writeByte0 c w ^^^ 0x80#8 ∧
    writeByte0 { c with srch := ~~~c.srch } w = writeByte0 c w ^^^ 0x40#8 := by
  refine ⟨?_, ?_⟩ <;>
  · refine BitVec.eq_of_getLsbD_eq fun k hk => ?_
    rw [BitVec.getLsbD_xor, getLsbD_writeByte0 _ _ _ hk, getLsbD_writeByte0 _ _ _ hk]
    interval_cases k <;> simp

/-- R93: `SUD` and `STEREO` are one bit each of write byte 2. -/
theorem writeByte2_not_flag :
    writeByte2 p { c with sud := ~~~c.sud } = writeByte2 p c ^^^ 0x80#8 ∧
    writeByte2 p { c with stereo := ~~~c.stereo } = writeByte2 p c ^^^ 0x08#8 := by
  refine ⟨?_, ?_⟩ <;>
  · refine BitVec.eq_of_getLsbD_eq fun k hk => ?_
    rw [BitVec.getLsbD_xor, getLsbD_writeByte2 _ _ _ hk, getLsbD_writeByte2 _ _ _ hk]
    interval_cases k <;> simp [stereoBit_not]

/-- R93: the flags of write byte 3 are one bit each of it. -/
theorem writeByte3_not_flag :
    writeByte3 { c with stby := ~~~c.stby } = writeByte3 c ^^^ 0x40#8 ∧
    writeByte3 { c with smute := ~~~c.smute } = writeByte3 c ^^^ 0x08#8 ∧
    writeByte3 { c with hcc := ~~~c.hcc } = writeByte3 c ^^^ 0x04#8 ∧
    writeByte3 { c with snc := ~~~c.snc } = writeByte3 c ^^^ 0x02#8 := by
  refine ⟨?_, ?_, ?_, ?_⟩ <;>
  · refine BitVec.eq_of_getLsbD_eq fun k hk => ?_
    rw [BitVec.getLsbD_xor, getLsbD_writeByte3 _ _ hk, getLsbD_writeByte3 _ _ hk]
    interval_cases k <;> simp

/-- The band is bit 5 of write byte 3, and `F` is no part of the byte. -/
theorem writeByte3_jp_of_us (hus : c.band = 0b00#2) (f : BitVec 32) :
    writeByte3 { c with band := 0b01#2, f := f } = writeByte3 c ^^^ 0x20#8 := by
  refine BitVec.eq_of_getLsbD_eq fun k hk => ?_
  rw [BitVec.getLsbD_xor, getLsbD_writeByte3 _ _ hk, getLsbD_writeByte3 _ _ hk]
  interval_cases k <;> simp [hus, bandJP]

/-- The threshold code is bits 6 and 5 of write byte 2. -/
theorem writeByte2_ssl (v : BitVec 2) :
    writeByte2 p { c with ssl := v } = (writeByte2 p c &&& 0x9F#8) ||| (v.setWidth 8 <<< 5) := by
  refine BitVec.eq_of_getLsbD_eq fun k hk => ?_
  rw [BitVec.getLsbD_or, BitVec.getLsbD_and, getLsbD_writeByte2 _ _ _ hk, getLsbD_writeByte2 _ _ _ hk]
  interval_cases k <;> simp

/-- The top two bits of write byte 0 hold no bit of the word. -/
theorem writeByte0_flags (v : PllWord) : writeByte0 c v &&& 0xC0#8 = writeByte0 c w &&& 0xC0#8 := by
  refine BitVec.eq_of_getLsbD_eq fun k hk => ?_
  rw [BitVec.getLsbD_and, BitVec.getLsbD_and, getLsbD_writeByte0 _ _ _ hk, getLsbD_writeByte0 _ _ _ hk]
  interval_cases k <;> simp

/-- Below them stands the high part of the word. -/
theorem writeByte0_word : writeByte0 c w &&& 0x3F#8 = (freqH w).setWidth 8 := by
  refine BitVec.eq_of_getLsbD_eq fun k hk => ?_
  rw [BitVec.getLsbD_and, getLsbD_writeByte0 _ _ _ hk]
  interval_cases k <;> simp [freqH]

theorem writeByte2_constant : writeByte2 p c &&& 0x17#8 = 0x10#8 := by
  refine BitVec.eq_of_getLsbD_eq fun k hk => ?_
  rw [BitVec.getLsbD_and, getLsbD_writeByte2 _ _ _ hk]
  interval_cases k <;> simp

theorem writeByte3_constant : writeByte3 c &&& 0x91#8 = 0x10#8 := by
  refine BitVec.eq_of_getLsbD_eq fun k hk => ?_
  rw [BitVec.getLsbD_and, getLsbD_writeByte3 _ _ hk]
  interval_cases k <;> simp

end

/-- An image byte by byte, its word that of any configuration with the same `F`. -/
theorem writeImage_eq_of_bytes {p q : Params} (c : ConfigFile) {d : ConfigFile} {img : Image}
    (ht : q.tieRule = p.tieRule) (hf : d.f = c.f) (h0 : writeByte0 d (pllWord p c) = img.b0)
    (h1 : writeByte1 (pllWord p c) = img.b1) (h2 : writeByte2 q d = img.b2) (h3 : writeByte3 d = img.b3)
    (h4 : writeByte4 = img.b4) : writeImage q d = img := by
  rw [← pllWord_congr ht hf] at h0 h1
  exact image_eq h0 h1 h2 h3 h4

theorem writeByte2_congr {p q : Params} (hpol : p.stereoPolarity = q.stereoPolarity) (c : ConfigFile) :
    writeByte2 p c = writeByte2 q c := by
  rw [writeByte2, writeByte2, hpol]

/-- Settles O38: an image is compared byte by byte; a register other than `F` stands in one byte, at the
bits of its layout. -/
theorem writeImageProperties : Obligations.WriteImageProperties := by
  refine ⟨fun p q c a hpol htie => ?_, fun p c => ?_, fun p c v => ?_, fun p c f hus => ?_,
    fun p c => ⟨writeByte2_constant p c, writeByte3_constant c, rfl⟩, fun p c hband => ?_⟩
  · have hb2 : writeByte2 q c = writeByte2 p c := writeByte2_congr hpol.symm c
    exact (writeImage_eq_of_bytes c htie.symm rfl rfl rfl hb2 rfl rfl).symm
  · obtain ⟨hmute, hsrch⟩ := writeByte0_not_flag c (pllWord p c)
    obtain ⟨hsud, hstereo⟩ := writeByte2_not_flag p c
    obtain ⟨hstby, hsmute, hhcc, hsnc⟩ := writeByte3_not_flag c
    exact ⟨writeImage_eq_of_bytes c rfl rfl hmute rfl rfl rfl rfl,
      writeImage_eq_of_bytes c rfl rfl hsrch rfl rfl rfl rfl,
      writeImage_eq_of_bytes c rfl rfl rfl rfl hsud rfl rfl,
      writeImage_eq_of_bytes c rfl rfl rfl rfl hstereo rfl rfl,
      writeImage_eq_of_bytes c rfl rfl rfl rfl rfl hstby rfl,
      writeImage_eq_of_bytes c rfl rfl rfl rfl rfl hsmute rfl,
      writeImage_eq_of_bytes c rfl rfl rfl rfl rfl hhcc rfl,
      writeImage_eq_of_bytes c rfl rfl rfl rfl rfl hsnc rfl⟩
  · exact writeImage_eq_of_bytes c rfl rfl rfl rfl (writeByte2_ssl p c v) rfl rfl
  · have hb3 := writeByte3_jp_of_us c hus f
    simp only [writeImage_b0, writeImage_b2, writeImage_b3, writeImage_b4]
    exact ⟨rfl, hb3, trivial, writeByte0_flags c _ _,
      fun hf => writeImage_eq_of_bytes c rfl hf rfl rfl rfl hb3 rfl⟩
  · obtain ⟨_, _, _, _, _, hlo, hhi⟩ := pllWordRange p c hband
    have hb0 : ((writeImage p c).b0 &&& 0x3F#8).toNat = (freqH (pllWord p c)).toNat := by
      rw [writeImage_b0, writeByte0_word, BitVec.toNat_setWidth_of_le (by decide)]
    rw [BitVec.le_def, BitVec.le_def, hb0]
    exact ⟨hlo, hhi⟩

end Sys2Proof.Machine

/-! What a SYNC leaves (41_sync_encode.md rules R82 to R92): the configuration of its step 1, one response,
and a history that goes on with the write of the image. -/

namespace Sys2Proof.Machine

/-- No command but INIT writes `BAND` before its SYNC. -/
@[simp] theorem preSync_band (i : Instr) (c : ConfigFile) : (preSync i c).band = requestedBand i c := by
  cases i <;> rfl

section
variable (i : Instr) (c : ConfigFile)

theorem syncedConfig_band :
    (syncedConfig i c).band = if requestedBand i c = 0b01#2 then 0b01#2 else 0b00#2 := by
  rw [syncedConfig, bandClamped_band, preSync_band]

theorem syncedConfig_f :
    (syncedConfig i c).f.toInt =
      if requestedBand i c = 0b01#2 then max 76000 (min 91000 (requestedFreq i c))
      else max 87500 (min 108000 (requestedFreq i c)) := by
  rw [syncedConfig, bandClamped_f, preSync_band]

end

/-- SYNC step 1 writes `F` and `BAND` only, and reads `BAND` only. -/
theorem bandClamped_with_band (fin : Int) (c : ConfigFile) :
    bandClamped fin { bandClamped fin c with band := c.band } = bandClamped fin c := by
  by_cases h : c.band = 0b01#2 <;> simp [bandClamped, h]

section
variable {i : Instr} {s t : State}

theorem accepted_of_runsSync (h : runsSync i s = true) : accepted i s = true := by
  simp only [runsSync, Bool.and_eq_true] at h
  exact h.1

/-- Every SYNC puts the write of the image of the registers it leaves on the bus (R89). -/
theorem history_of_runsSync (h : runsSync i s = true) (ht : exec i s = .next t) :
    ∃ r tail, t.history = s.history ++ .busWriteEv t.cfg.addr (writeImage t.params t.cfg) r :: tail := by
  rcases exec_runs_cases h with ⟨e, ws, n, hx⟩ | ⟨e, ws, rs, n, hx⟩ | ⟨buf, ws, rs, n, hx⟩ <;>
  · obtain rfl := Host.Outcome.next.inj (hx.symm.trans ht)
    exact ⟨_, _, rfl⟩

/-- The response of a command that runs SYNC decides the `LC` it leaves (R74, R92). -/
theorem response_lc_of_runsSync (h : runsSync i s = true) (ht : exec i s = .next t) :
    ∃ r, t.responses = s.responses ++ [r] ∧ t.lc = lcAfter i r := by
  obtain rfl := Host.Outcome.next.inj ((exec_runs h).symm.trans ht)
  exact ⟨_, rfl, rfl⟩

end

theorem lcAfter_other {i : Instr} (hi : i.isInit = false) (r : Response) : lcAfter i r = .ready := by
  simp [lcAfter, hi]

theorem lcAfter_init {i : Instr} (hi : i.isInit = true) (r : Response) : lcAfter i r = .ready ↔ r = .ok := by
  by_cases hr : r = .ok <;> simp [lcAfter, hi, hr]

/-- The JP bit of the image (R61). -/
theorem getLsbD_writeByte3_five (c : ConfigFile) : (writeByte3 c).getLsbD 5 = decide (c.band = 0b01#2) :=
  getLsbD_writeByte3 c 5 (by decide)

/-- Settles O16: `syncedConfig` holds the coerced band and the frequency clamped with its limits, and the
image on the bus is the image of that configuration. -/
theorem bandCoercedBeforeClamp : Obligations.BandCoercedBeforeClamp := by
  intro i s hrun
  obtain ⟨t, ht⟩ := exec_goes_on i s
  obtain ⟨r, tail, hhist⟩ := history_of_runsSync hrun ht
  refine ⟨t, writeImage t.params t.cfg, r, tail, ht, hhist, ?_⟩
  rw [writeImage_b3, getLsbD_writeByte3_five, cfg_of_runsSync hrun ht, syncedConfig_f, syncedConfig_band]
  refine ⟨fun hjp => ?_, fun hus => ?_⟩
  · rw [if_pos hjp]
    exact ⟨rfl, rfl⟩
  · rw [if_neg hus, if_neg hus]
    exact ⟨rfl, rfl, rfl⟩

/-- Settles O17: `F` is the clamped frequency of `syncedConfig_f`, by the band's limits. -/
theorem frequencyClampedToBand : Obligations.FrequencyClampedToBand := by
  intro i s hrun
  obtain ⟨t, r, ht, hresp, hlegal⟩ := exec_accepted_responds (accepted_of_runsSync hrun)
  refine ⟨t, r, ht, hresp, hlegal, ?_⟩
  rw [cfg_of_runsSync hrun ht, syncedConfig_f, syncedConfig_band]
  by_cases hjp : requestedBand i s.cfg = 0b01#2
  · simp only [hjp, if_true]
    refine ⟨fun _ => ⟨?_, ?_, ?_⟩, fun h => absurd h (by decide), .inl trivial⟩ <;> omega
  · simp only [hjp, if_false]
    refine ⟨fun h => absurd h (by decide), fun _ => ⟨?_, ?_, ?_⟩, .inr trivial⟩ <;> omega

/-- Settles O18: the three cases of `exec_runs_cases`; the settle between write and read is no access. -/
theorem syncBusPhases : Obligations.SyncBusPhases := by
  intro i s hrun
  rcases exec_runs_cases hrun with ⟨e, ws, n, hx⟩ | ⟨e, ws, rs, n, hx⟩ | ⟨buf, ws, rs, n, hx⟩
  · exact ⟨_, hx, .inl ⟨e, rfl, rfl, rfl, rfl⟩⟩
  · exact ⟨_, hx, .inr (.inl ⟨e, busAccesses_append _ _, rfl, rfl, rfl⟩)⟩
  · exact ⟨_, hx, .inr (.inr ⟨buf, busAccesses_append _ _, rfl, rfl, rfl⟩)⟩

/-- Whether a command runs SYNC is settled before the bus answers. -/
@[simp] theorem runsSync_withAnswers (i : Instr) (s : State) (ws : List WriteResult) (rs : List ReadResult) :
    runsSync i (s.withAnswers ws rs) = runsSync i s := by
  cases i <;> rfl

/-- What a command that runs SYNC leaves, whatever bus answers are listed for it: only `LC` follows the
response (R92). -/
theorem exec_withAnswers_leaves {i : Instr} {s : State} (h : runsSync i s = true) (ws : List WriteResult)
    (rs : List ReadResult) :
    ∃ t r, exec i (s.withAnswers ws rs) = .next t ∧ t.cfg = syncedConfig i s.cfg ∧
      t.responses = s.responses ++ [r] ∧ t.lc = lcAfter i r := by
  have hrun : runsSync i (s.withAnswers ws rs) = true := by rwa [runsSync_withAnswers]
  obtain ⟨t, ht⟩ := exec_goes_on i (s.withAnswers ws rs)
  obtain ⟨r, hresp, hlc⟩ := response_lc_of_runsSync hrun ht
  have hcfg := cfg_of_runsSync hrun ht
  exact ⟨t, r, ht, hcfg, hresp, hlc⟩

/-- Settles O22: both runs leave `syncedConfig`, in which no bus answer stands, and each leaves the `LC` of
its own response. -/
theorem failedSyncRollsNothingBack : Obligations.FailedSyncRollsNothingBack := by
  intro i s ws ws' rs rs' hrun
  obtain ⟨t, r, ht, hcfg, hr, hlc⟩ := exec_withAnswers_leaves hrun ws rs
  obtain ⟨t', r', ht', hcfg', hr', hlc'⟩ := exec_withAnswers_leaves hrun ws' rs'
  refine ⟨t, t', r, r', ht, ht', hcfg.trans hcfg'.symm, ?_, hr, hr', fun hi => ?_, fun hi => ?_⟩
  · rw [hcfg, ← preSync_band]
    exact (bandClamped_with_band _ _).symm
  · exact ⟨hlc.trans (lcAfter_other hi r), hlc'.trans (lcAfter_other hi r')⟩
  · rw [hlc, hlc']
    exact ⟨lcAfter_init hi r, lcAfter_init hi r'⟩

end Sys2Proof.Machine

/-! The status fields of a read image as numbers (42_status_decode.md rules R95 to R100). -/

namespace Sys2Proof.Machine

theorem toNat_readbackWord (buf : Image) :
    (readbackWord buf).toNat = buf.b0.toNat % 64 * 256 + buf.b1.toNat := by
  rw [readbackWord, BitVec.toNat_append, ← Nat.shiftLeft_add_eq_or_of_lt buf.b1.isLt]
  simp [BitVec.extractLsb'_toNat, Nat.shiftLeft_eq]

/-- A field that ends at a byte's top bit is the byte divided by the weight of the field's lowest bit. -/
theorem toNat_extractLsb'_top (b : Byte) {start len : Nat} (h : start + len = 8) :
    (b.extractLsb' start len).toNat = b.toNat / 2 ^ start := by
  have hlt : b.toNat / 2 ^ start < 2 ^ len :=
    Nat.div_lt_of_lt_mul (by rw [← Nat.pow_add, h]; exact b.isLt)
  rw [BitVec.extractLsb'_toNat, Nat.shiftRight_eq_div_pow, Nat.mod_eq_of_lt hlt]

/-- Settles O40: `RDY`, `STDET` and `LEV` are fields at the top of their bytes; the readback word is the two
low parts of its bytes. -/
theorem statusFieldsDecoded : Obligations.StatusFieldsDecoded := fun buf =>
  ⟨toNat_extractLsb'_top buf.b0 rfl, toNat_readbackWord buf, toNat_extractLsb'_top buf.b2 rfl,
    toNat_extractLsb'_top buf.b3 rfl⟩

end Sys2Proof.Machine

/-! DEQUANT meets no tie (42_status_decode.md rule R98). -/

namespace Sys2Proof.Machine

/-- Away from a half the tie rule of `roundDiv` has no effect. -/
theorem roundDiv_eq_of_no_tie {n d : Int} (hd : 0 < d) (htie : ∀ k : Int, 2 * n ≠ (2 * k + 1) * d)
    (t u : TieRule) : roundDiv n d t = roundDiv n d u := by
  obtain ⟨hlo, hhi⟩ := roundDiv_near n d u hd
  have habove : 2 * (d * roundDiv n d u - n) ≠ -d := fun h => htie (roundDiv n d u) (by linarith)
  have hbelow : 2 * (d * roundDiv n d u - n) ≠ d := fun h => htie (roundDiv n d u - 1) (by linarith)
  exact roundDiv_unique n d t hd _ ⟨lt_of_le_of_ne hlo habove.symm, lt_of_le_of_ne hhi hbelow⟩

/-- R98: divided by 16, the left side is odd and the right side even. -/
theorem dequant_no_tie (rw k : Int) : 2 * (8192 * rw - 225000) ≠ (2 * k + 1) * 100000 := by
  omega

/-- Settles O42: without a tie (`dequant_no_tie`), either rule rounds alike. -/
theorem dequantHasNoTies : Obligations.DequantHasNoTies :=
  ⟨dequant_no_tie, fun rw t => roundDiv_eq_of_no_tie (by decide) (dequant_no_tie rw) t .halfEven⟩

end Sys2Proof.Machine

/-! The read bits DECODE ignores (42_status_decode.md rule R102). -/

namespace Sys2Proof.Machine

/-- Flipping bits of a byte outside a field leaves the field as it was. -/
theorem extractLsb'_xor_masked (b y : Byte) {mask : Byte} {start len : Nat}
    (h : mask.extractLsb' start len = 0#len) :
    (b ^^^ (y &&& mask)).extractLsb' start len = b.extractLsb' start len := by
  rw [BitVec.extractLsb'_xor, BitVec.extractLsb'_and, h, BitVec.and_zero, BitVec.xor_zero]

/-- No status register reads an ignored bit: each is a field beside the changed bits. -/
theorem decodeStatus_changeIgnored (buf : Image) (y0 y2 y3 y4 : Byte) :
    decodeStatus (changeIgnored buf y0 y2 y3 y4) = decodeStatus buf := by
  have hrdy : statusRdy (changeIgnored buf y0 y2 y3 y4) = statusRdy buf := extractLsb'_xor_masked _ _ rfl
  have hword : readbackWord (changeIgnored buf y0 y2 y3 y4) = readbackWord buf :=
    congrArg (· ++ buf.b1) (extractLsb'_xor_masked buf.b0 y0 rfl)
  have hstdet : statusStdet (changeIgnored buf y0 y2 y3 y4) = statusStdet buf := extractLsb'_xor_masked _ _ rfl
  have hlev : statusLev (changeIgnored buf y0 y2 y3 y4) = statusLev buf := extractLsb'_xor_masked _ _ rfl
  simp only [decodeStatus, statusObsf, hrdy, hword, hstdet, hlev]

/-- A write neither draws on nor looks at the listed read results. -/
theorem memWrite_readAnswers (addr : DevAddr) (img : Image) (s : State) (rs : List ReadResult) :
    memWrite addr img { s with readAnswers := rs } =
      ((memWrite addr img s).1, { (memWrite addr img s).2 with readAnswers := rs }) := by
  cases h : s.writeAnswers <;> simp [memWrite, drawWrite, State.record, h]

/-- A listed read image is taken and decoded. -/
theorem syncRead_listed {s : State} {buf : Image} {rs : List ReadResult} (h : s.readAnswers = .ok buf :: rs) :
    syncRead s = (.ok, { s with
      status := decodeStatus buf, stvalid := 1#1,
      history := s.history ++ [.busReadEv s.cfg.addr (.ok buf)], readAnswers := rs }) := by
  simp [syncRead, memRead, drawRead, h, decodeInto, State.record, State.withStatus, State.withStvalid]

/-- The lifecycle check looks at no bus answer. -/
@[simp] theorem accepted_withAnswers (i : Instr) (s : State) (ws : List WriteResult) (rs : List ReadResult) :
    accepted i (s.withAnswers ws rs) = accepted i s := by
  cases i <;> rfl

/-- Nor does the option of R15. -/
@[simp] theorem skipsSync_withAnswers (i : Instr) (s : State) (ws : List WriteResult) (rs : List ReadResult) :
    skipsSync i (s.withAnswers ws rs) = skipsSync i s := by
  cases i <;> rfl

/-- The state a command leaves when the bus part of its SYNC ended in `result`. -/
def afterSync (i : Instr) (s : State) (result : Response × State) : State :=
  { result.2 with lc := lcAfter i result.1, responses := s.responses ++ [result.1] }

/-- `exec_runs` with the bus answers given. -/
theorem exec_runs_withAnswers {i : Instr} {s : State} (h : runsSync i s = true) (ws : List WriteResult)
    (rs : List ReadResult) :
    exec i (s.withAnswers ws rs) = .next (afterSync i s (syncBus
      { s with
        cfg := syncedConfig i s.cfg, stvalid := syncedStvalid i s, writeAnswers := ws, readAnswers := rs })) :=
  exec_runs ((runsSync_withAnswers i s ws rs).trans h)

section
variable {buf buf' : Image} (hdec : decodeStatus buf' = decodeStatus buf)
include hdec

/-- Of a listed read image SYNC keeps what DECODE makes of it, and otherwise only the bus's side of the
state: the event of the read, or the image itself where a failing write leaves it unread. -/
theorem syncBus_listed_read_congr (s : State) (rs : List ReadResult) :
    ∃ h rs', syncBus { s with readAnswers := .ok buf' :: rs } =
      ((syncBus { s with readAnswers := .ok buf :: rs }).1,
        { (syncBus { s with readAnswers := .ok buf :: rs }).2 with history := h, readAnswers := rs' }) := by
  simp only [syncBus, memWrite_readAnswers]
  obtain ⟨r, w⟩ := memWrite s.cfg.addr (writeImage s.params s.cfg) s
  cases r with
  | err e => exact ⟨_, _, rfl⟩
  | ok =>
    have hread (b : Image) : syncRead (settle { w with readAnswers := .ok b :: rs }) = _ := syncRead_listed rfl
    simp only [hread, hdec]
    exact ⟨_, _, rfl⟩

/-- The same for a whole command. -/
theorem exec_listed_read_congr (i : Instr) (s : State) (ws : List WriteResult) (rs : List ReadResult) :
    ∃ t h rs', exec i (s.withAnswers ws (.ok buf :: rs)) = .next t ∧
      exec i (s.withAnswers ws (.ok buf' :: rs)) = .next { t with history := h, readAnswers := rs' } := by
  rcases exec_kinds i s with hoff | ⟨ha, hk⟩ | hrun
  · have hx (b : Image) : exec i (s.withAnswers ws (.ok b :: rs)) = _ :=
      exec_turned_away ((accepted_withAnswers ..).trans hoff)
    exact ⟨_, _, _, hx buf, hx buf'⟩
  · have hx (b : Image) : exec i (s.withAnswers ws (.ok b :: rs)) = _ :=
      exec_skips ((accepted_withAnswers ..).trans ha) ((skipsSync_withAnswers ..).trans hk)
    exact ⟨_, _, _, hx buf, hx buf'⟩
  · obtain ⟨h, rs', hbus⟩ := syncBus_listed_read_congr hdec
      { s with cfg := syncedConfig i s.cfg, stvalid := syncedStvalid i s, writeAnswers := ws } rs
    exact ⟨_, h, rs', exec_runs_withAnswers hrun _ _, by rw [exec_runs_withAnswers hrun, hbus]; rfl⟩

end

/-- Settles O43: the two images decode alike, and the runs then part in the bus's side of the state only. -/
theorem ignoredReadBits : Obligations.IgnoredReadBits := by
  intro i s ws rs buf x0 x2 x3 x4
  obtain ⟨t, h, rs', ht, ht'⟩ :=
    exec_listed_read_congr (decodeStatus_changeIgnored buf x0 x2 x3 x4) i s ws rs
  exact ⟨t, _, ht, ht', rfl, rfl, rfl, rfl, rfl⟩

end Sys2Proof.Machine

/-! The two checks of the decoder (30_encoding.md rules R67 and R72) in the numbers of the opcode and the
must-be-zero bits of the word. -/

namespace Sys2Proof.Machine

theorem ofBits_eq_none_iff : ∀ op : BitVec 4, Opcode.ofBits op = none ↔ op = 0x0#4 ∨ 0x7#4 ≤ op := by
  decide

theorem ofBits_eq_some_iff (b : BitVec 4) (op : Opcode) :
    Opcode.ofBits b = some op ↔ b = fieldOP op.matchBits := by
  revert b
  cases op <;> decide

/-- A row's mask is the opcode field and the row's must-be-zero bits. -/
theorem mask_eq_opcode_or_mustBeZero (op : Opcode) :
    op.mask = 0xF000000000000000#64 ||| mustBeZero (fieldOP op.matchBits) := by
  cases op <;> rfl

theorem matchBits_eq_opcode_append (op : Opcode) : op.matchBits = fieldOP op.matchBits ++ 0#60 := by
  cases op <;> rfl

theorem and_opcodeMask (cmd : Command) : cmd &&& 0xF000000000000000#64 = fieldOP cmd ++ 0#60 := by
  refine BitVec.eq_of_getLsbD_eq fun k hk => ?_
  simp only [fieldOP, BitVec.getLsbD_and, BitVec.getLsbD_append, BitVec.getLsbD_extractLsb']
  interval_cases k <;> simp

/-- No must-be-zero bit stands in the opcode field. -/
theorem matchBits_and_mustBeZero (op : Opcode) :
    op.matchBits &&& mustBeZero (fieldOP op.matchBits) = 0#64 := by
  cases op <;> rfl

theorem mask_and_mustBeZero (op : Opcode) :
    op.mask &&& mustBeZero (fieldOP op.matchBits) = mustBeZero (fieldOP op.matchBits) := by
  cases op <;> rfl

/-- Under the opcode of a row, the row's match says that the must-be-zero bits are zero. -/
theorem match_iff_mustBeZero {cmd : Command} {op : Opcode} (hop : fieldOP cmd = fieldOP op.matchBits) :
    cmd &&& op.mask = op.matchBits ↔ cmd &&& mustBeZero (fieldOP cmd) = 0#64 := by
  rw [hop]
  constructor
  · intro h
    rw [← mask_and_mustBeZero, ← BitVec.and_assoc, h, matchBits_and_mustBeZero]
  · intro h
    rw [mask_eq_opcode_or_mustBeZero, BitVec.and_or_distrib_left, and_opcodeMask, h, BitVec.or_zero, hop,
      ← matchBits_eq_opcode_append]

/-- `decode` with its second check in the must-be-zero bits. -/
theorem decode_of_ofBits {cmd : Command} {op : Opcode} (hop : Opcode.ofBits (fieldOP cmd) = some op) :
    decode cmd =
      if cmd &&& mustBeZero (fieldOP cmd) = 0#64 then .ok (op.read cmd) else .error .reservedBits := by
  simp only [decode, hop, match_iff_mustBeZero ((ofBits_eq_some_iff _ _).1 hop)]

theorem decode_of_reserved {cmd : Command} (hop : Opcode.ofBits (fieldOP cmd) = none) :
    decode cmd = .error .opcode := by
  simp [decode, hop]

end Sys2Proof.Machine

/-! The responses of the block (60_exceptions.md rules R103 to R108): which of R73's checks a command word
fails, and what a command past them does on the bus. -/

namespace Sys2Proof.Machine

/-- The lifecycle check of R73, by whether the command is INIT. -/
def lifecycleCheck : Bool → Lifecycle → Option IllegalCause
  | true, .ready => some .alreadyConstructed
  | false, .unconstructed => some .notConstructed
  | true, .unconstructed => none
  | false, .ready => none

theorem lifecycleCheck_eq_some_iff {init : Bool} {lc : Lifecycle} {cause : IllegalCause} :
    lifecycleCheck init lc = some cause ↔
      (init = true ∧ lc = .ready ∧ cause = .alreadyConstructed) ∨
      (init = false ∧ lc = .unconstructed ∧ cause = .notConstructed) := by
  cases init <;> cases lc <;> cases cause <;> decide

theorem lifecycleCheck_eq_none_iff {init : Bool} {lc : Lifecycle} :
    lifecycleCheck init lc = none ↔ (init = true ↔ lc = .unconstructed) := by
  cases init <;> cases lc <;> decide

/-- The first check of R73 that a command word fails, if any. -/
def failedCheck (cmd : Command) (lc : Lifecycle) : Option IllegalCause :=
  match decode cmd with
  | .error cause => some cause
  | .ok i => lifecycleCheck i.isInit lc

section
variable {cmd : Command} {lc : Lifecycle} {op : Opcode}

theorem failedCheck_of_error {cause : IllegalCause} (h : decode cmd = .error cause) :
    failedCheck cmd lc = some cause := by
  simp [failedCheck, h]

theorem failedCheck_of_ok {i : Instr} (h : decode cmd = .ok i) :
    failedCheck cmd lc = lifecycleCheck i.isInit lc := by
  simp [failedCheck, h]

theorem isInit_read (op : Opcode) (cmd : Command) : (op.read cmd).isInit = decide (op = .init) := by
  cases op <;> rfl

/-- On a word with a row's opcode, the second check of R72 comes before the lifecycle check. -/
theorem failedCheck_of_ofBits (hop : Opcode.ofBits (fieldOP cmd) = some op) :
    failedCheck cmd lc =
      if cmd &&& mustBeZero (fieldOP cmd) = 0#64 then lifecycleCheck (op = .init) lc
      else some .reservedBits := by
  have hdec := decode_of_ofBits hop
  split_ifs at hdec ⊢
  · rw [failedCheck_of_ok hdec, isInit_read]
  · exact failedCheck_of_error hdec

end

/-- R106's conditions for the codes 1 to 4, each in the opcode number and the must-be-zero bits. -/
theorem failedCheck_iff (cmd : Command) (lc : Lifecycle) :
    (failedCheck cmd lc = some .opcode ↔ fieldOP cmd = 0x0#4 ∨ 0x7#4 ≤ fieldOP cmd) ∧
    (failedCheck cmd lc = some .reservedBits ↔
      0x1#4 ≤ fieldOP cmd ∧ fieldOP cmd ≤ 0x6#4 ∧ cmd &&& mustBeZero (fieldOP cmd) ≠ 0#64) ∧
    (failedCheck cmd lc = some .notConstructed ↔
      0x2#4 ≤ fieldOP cmd ∧ fieldOP cmd ≤ 0x6#4 ∧ cmd &&& mustBeZero (fieldOP cmd) = 0#64 ∧
        lc = .unconstructed) ∧
    (failedCheck cmd lc = some .alreadyConstructed ↔
      fieldOP cmd = 0x1#4 ∧ cmd &&& mustBeZero (fieldOP cmd) = 0#64 ∧ lc = .ready) := by
  cases hop : Opcode.ofBits (fieldOP cmd) with
  | none =>
    have hreserved := (ofBits_eq_none_iff _).1 hop
    rw [failedCheck_of_error (decode_of_reserved hop)]
    exact ⟨iff_of_true rfl hreserved, iff_of_false (by decide) fun ⟨_, _, _⟩ => by bv_omega,
      iff_of_false (by decide) fun ⟨_, _, _⟩ => by bv_omega,
      iff_of_false (by decide) fun ⟨_, _⟩ => by bv_omega⟩
  | some op =>
    rw [failedCheck_of_ofBits hop, (ofBits_eq_some_iff _ op).1 hop]
    by_cases hz : cmd &&& mustBeZero (fieldOP op.matchBits) = 0#64
    · simp only [hz, if_true]
      cases op <;> cases lc <;> decide
    · simp only [hz, if_false, ne_eq]
      cases op <;> cases lc <;> decide

/-- How a command past R73's checks ends: its response, between the bus histories before and after it. -/
inductive Completes (before after : List BusEvent) : Response → Prop
  | ok : Completes before after .ok
  | writeFails {a : DevAddr} {img : Image} {e : BusError}
      (h : after = before ++ [.busWriteEv a img (.err e)]) : Completes before after (.transport .write e)
  | readFails {a b : DevAddr} {img : Image} {e : BusError}
      (h : busAccesses after = busAccesses before ++ [.busWriteEv a img .ok, .busReadEv b (.err e)]) :
      Completes before after (.transport .read e)

/-- An accepted command completes, and leaves the command port to the step. -/
theorem exec_completes {i : Instr} {s : State} (h : accepted i s = true) :
    ∃ t r, exec i s = .next t ∧ t.responses = s.responses ++ [r] ∧ t.inputs = s.inputs ∧
      Completes s.history t.history r := by
  rcases exec_kinds i s with hoff | ⟨_, hskip⟩ | hrun
  · cases hoff.symm.trans h
  · exact ⟨_, _, exec_skips h hskip, rfl, rfl, .ok⟩
  · rcases exec_runs_cases hrun with ⟨_, _, _, hx⟩ | ⟨_, _, _, _, hx⟩ | ⟨_, _, _, _, hx⟩
    · exact ⟨_, _, hx, rfl, rfl, .writeFails rfl⟩
    · exact ⟨_, _, hx, rfl, rfl, .readFails (busAccesses_append _ _)⟩
    · exact ⟨_, _, hx, rfl, rfl, .ok⟩

section
variable {s : State} {cmd : Command} {rest : List HostInput} (hin : s.inputs = .command cmd :: rest)
include hin

/-- R73, R107: a command word that fails a check is answered with it, and nothing else happens. -/
theorem step_of_failedCheck {cause : IllegalCause} (h : failedCheck cmd s.lc = some cause) :
    step s = .next { s with inputs := rest, responses := s.responses ++ [.illegal cause cmd] } := by
  obtain ⟨hword, hinit, hother, _⟩ := commandAcceptance s cmd rest hin
  cases hdec : decode cmd with
  | error c =>
    obtain rfl : c = cause := Option.some.inj ((failedCheck_of_error hdec).symm.trans h)
    exact hword c hdec
  | ok i =>
    rw [failedCheck_of_ok hdec, lifecycleCheck_eq_some_iff] at h
    obtain ⟨hi, hl, rfl⟩ | ⟨hi, hl, rfl⟩ := h
    · exact hinit i hdec hi hl
    · exact hother i hdec hi hl

/-- A command word that passes R73's checks completes. -/
theorem step_of_passedChecks (h : failedCheck cmd s.lc = none) :
    ∃ t r, step s = .next t ∧ t.responses = s.responses ++ [r] ∧ t.inputs = rest ∧
      Completes s.history t.history r := by
  cases hdec : decode cmd with
  | error c => cases (failedCheck_of_error hdec).symm.trans h
  | ok i =>
    rw [failedCheck_of_ok hdec, lifecycleCheck_eq_none_iff] at h
    rw [step_command hin hdec]
    exact exec_completes (s := s.withInputs rest) (accepted_iff.2 h)

end

/-- Settles O15: the codes 1 to 4 name the failed check of R73 (`failedCheck_iff`), the codes 5 and 6 the two
ways `Completes` has a SYNC fail. -/
theorem responseCodeSaysWhatHappened : Obligations.ResponseCodeSaysWhatHappened := by
  intro s cmd rest hin
  obtain ⟨hopcode, hbits, hnot, halready⟩ := failedCheck_iff cmd s.lc
  simp only [fieldOP] at hopcode hbits hnot halready
  simp only [← hopcode, ← hbits, ← hnot, ← halready]
  cases hcheck : failedCheck cmd s.lc with
  | some cause =>
    refine ⟨_, .illegal cause cmd, step_of_failedCheck hin hcheck, rfl, ?_⟩
    cases cause <;> simp [responseCode]
  | none =>
    obtain ⟨t, r, hstep, hresp, _, hdone⟩ := step_of_passedChecks hin hcheck
    refine ⟨t, r, hstep, hresp, ?_⟩
    cases hdone with
    | ok => simp [responseCode]
    | writeFails h => simp [responseCode, h]
    | readFails h => simp [responseCode, h]

/-- Settles O14: an `ILLEGAL` response is that of a failed check, since no command past the checks gives one. -/
theorem illegalResponseChangesNothing : Obligations.IllegalResponseChangesNothing := by
  intro s t cmd word rest cause hin hstep hresp
  cases hcheck : failedCheck cmd s.lc with
  | some c =>
    obtain rfl := Host.Outcome.next.inj ((step_of_failedCheck hin hcheck).symm.trans hstep)
    rw [← hresp]
  | none =>
    obtain ⟨t', r, hstep', hresp', _, hdone⟩ := step_of_passedChecks hin hcheck
    obtain rfl := Host.Outcome.next.inj (hstep'.symm.trans hstep)
    obtain rfl : r = .illegal cause word := by simpa using hresp'.symm.trans hresp
    cases hdone

/-- Settles O12: a command word fails a check or completes, with one response either way; the reset input and
an idle step give none. -/
theorem oneResponsePerCommand : Obligations.OneResponsePerCommand := by
  refine fun s => ⟨fun cmd rest hin => ?_, fun hno => ?_⟩
  · cases hcheck : failedCheck cmd s.lc with
    | some cause => exact ⟨_, _, step_of_failedCheck hin hcheck, rfl, rfl⟩
    | none =>
      obtain ⟨t, r, hstep, hresp, hrest, _⟩ := step_of_passedChecks hin hcheck
      exact ⟨t, r, hstep, hresp, hrest⟩
  · match hin : s.inputs with
    | [] => exact ⟨s, by simp [step, hin, idle], rfl⟩
    | .reset :: rest => exact ⟨_, step_reset hin, rfl⟩
    | .command cmd :: rest => exact absurd hin (hno cmd rest)

end Sys2Proof.Machine

/-! With a transport that succeeds every accepted command ends in `OK` (60_exceptions.md rule R104). -/

namespace Sys2Proof.Machine

/-- A listed write result is taken. -/
theorem memWrite_listed {s : State} {r : WriteResult} {ws : List WriteResult} (h : s.writeAnswers = r :: ws)
    (addr : DevAddr) (img : Image) :
    memWrite addr img s =
      (r, { s with history := s.history ++ [.busWriteEv addr img r], writeAnswers := ws }) := by
  simp [memWrite, drawWrite, h, State.record]

/-- Where the bus answers `Ok` twice, so does SYNC. -/
theorem syncBus_listed_ok {s : State} {ws : List WriteResult} {rs : List ReadResult} {buf : Image}
    (hw : s.writeAnswers = .ok :: ws) (hr : s.readAnswers = .ok buf :: rs) : (syncBus s).1 = .ok := by
  simp only [syncBus, memWrite_listed hw]
  rw [syncRead_listed (by exact hr)]

/-- Settles O21: an accepted command skips its SYNC or runs it, and both end in `OK`. -/
theorem invalidInputIsNoError : Obligations.InvalidInputIsNoError := by
  intro i s ws rs buf hacc hw hr
  rcases exec_kinds i s with hoff | ⟨_, hskip⟩ | hrun
  · cases hoff.symm.trans hacc
  · exact ⟨_, exec_skips hacc hskip, rfl, rfl⟩
  · have hok : (syncBus { s with cfg := syncedConfig i s.cfg, stvalid := syncedStvalid i s }).1 = .ok :=
      syncBus_listed_ok hw hr
    refine ⟨_, exec_runs hrun, ?_, ?_⟩
    · simp [hok]
    · simp [hok, lcAfter]

end Sys2Proof.Machine

/-! The observation port, by register file (60_exceptions.md rule R111). -/

namespace Sys2Proof.Machine

section
variable {reg : RegName} (s : State)

theorem observe_config (h : reg.file = .config) :
    observe reg s = if s.lc = .unconstructed then .error .obsNotConstructed else .ok (regValue s reg) := by
  simp [observe, h]

theorem observe_status (h : reg.file = .status) :
    observe reg s =
      if s.lc = .unconstructed ∨ s.stvalid = 0#1 then .error .obsStatusNotValid
      else .ok (regValue s reg) := by
  simp [observe, h]

theorem observe_bookkeeping (h : reg.file = .bookkeeping) : observe reg s = .ok (regValue s reg) := by
  simp [observe, h]

end

/-- Settles O51: one clause for each file and lifecycle, and the names of the files by their table. -/
theorem observationFaults : Obligations.ObservationFaults := by
  intro s reg
  refine ⟨fun hf hl => ?_, fun hf hl => ?_, fun hf hbad => ?_, fun hf hl hv => ?_,
    observe_bookkeeping s, ?_, ?_⟩
  · rw [observe_config s hf, if_pos hl]
  · rw [observe_config s hf, if_neg (by simp [hl])]
  · rw [observe_status s hf, if_pos hbad]
  · rw [observe_status s hf, if_neg (by simp [hl, hv])]
  · cases reg <;> decide
  · cases reg <;> decide

end Sys2Proof.Machine

/-! The hardware reset (70_reset_and_hazards.md rule R118). -/

namespace Sys2Proof.Machine

/-- R111: without an instance every register but `LC` and `STVALID` faults. -/
theorem observe_unconstructed {s : State} (hl : s.lc = .unconstructed) {reg : RegName} (hlc : reg ≠ .lc)
    (hstv : reg ≠ .stvalid) : ∃ fault, observe reg s = .error fault := by
  obtain ⟨hconfig, _, hstatus, _, _, hbook, _⟩ := observationFaults s reg
  cases hf : reg.file with
  | config => exact ⟨_, hconfig hf hl⟩
  | status => exact ⟨_, hstatus hf (.inl hl)⟩
  | bookkeeping => exact ((hbook.1 hf).elim hlc hstv).elim

/-- R73: without an instance no word but an INIT's passes the checks. -/
theorem isInit_of_passedChecks {cmd : Command} (h : failedCheck cmd .unconstructed = none) :
    ∃ i, decode cmd = .ok i ∧ i.isInit = true := by
  cases hdec : decode cmd with
  | error cause => cases (failedCheck_of_error hdec).symm.trans h
  | ok i =>
    rw [failedCheck_of_ok hdec, lifecycleCheck_eq_none_iff] at h
    exact ⟨i, rfl, h.2 rfl⟩

/-- Without an instance the response to a command word is `ILLEGAL`, unless the word is an INIT's. -/
theorem step_command_unconstructed {s : State} {cmd : Command} {rest : List HostInput}
    (hl : s.lc = .unconstructed) (hin : s.inputs = .command cmd :: rest) :
    ∃ t r, step s = .next t ∧ t.responses = s.responses ++ [r] ∧
      (r.isIllegal = false → ∃ i, decode cmd = .ok i ∧ i.isInit = true) := by
  cases hcheck : failedCheck cmd s.lc with
  | some cause =>
    exact ⟨_, .illegal cause cmd, step_of_failedCheck hin hcheck, rfl, fun hlegal => nomatch hlegal⟩
  | none =>
    obtain ⟨t, r, hstep, hresp, _, _⟩ := step_of_passedChecks hin hcheck
    rw [hl] at hcheck
    exact ⟨t, r, hstep, hresp, fun _ => isInit_of_passedChecks hcheck⟩

/-- Settles O52: the reset leaves no instance, so nothing but INIT is accepted and no other register reads. -/
theorem hardwareReset_spec : Obligations.HardwareReset := by
  refine ⟨⟨rfl, rfl, rfl⟩, fun reg => observe_unconstructed rfl, fun s rest hin => ?_⟩
  exact ⟨_, step_reset hin, rfl, rfl, rfl, fun reg => observe_unconstructed rfl,
    fun cmd rest' hrest => step_command_unconstructed rfl hrest⟩

end Sys2Proof.Machine

/-! The state after INIT (70_reset_and_hazards.md rule R119). -/

namespace Sys2Proof.Machine

/-- The rows of R119's table that read the same in both columns, `LC` aside. -/
def InitRegisters (a7 : DevAddr) (st sm nc hc : Bit) (c : ConfigFile) : Prop :=
  c.addr = a7 ∧ c.stereo = st ∧ c.smute = sm ∧ c.snc = nc ∧ c.hcc = hc ∧ c.mute = 0#1 ∧ c.stby = 0#1 ∧
  c.srch = 0#1 ∧ c.sud = 1#1 ∧ c.ssl = 0b10#2

section
variable (a7 : DevAddr) (imm : Int) (bnd : BitVec 2) (st sm nc hc : Bit)

theorem initRegisters_initConfig : InitRegisters a7 st sm nc hc (initConfig a7 imm bnd st sm nc hc) :=
  ⟨rfl, rfl, rfl, rfl, rfl, rfl, rfl, rfl, rfl, rfl⟩

/-- SYNC step 1 writes none of these registers. -/
theorem initRegisters_syncedConfig (c : ConfigFile) :
    InitRegisters a7 st sm nc hc (syncedConfig (.init a7 imm bnd st sm nc hc) c) := by
  have h := initRegisters_initConfig a7 imm bnd st sm nc hc
  simpa [InitRegisters, syncedConfig, preSync] using h

end

/-- An immediate fits the register `F`, which keeps it as it is (R18, R68). -/
theorem toInt_ofInt_of_immInRange {imm : Int} (h : immInRange imm = true) :
    (BitVec.ofInt 32 imm).toInt = imm := by
  simp only [immInRange, Bool.and_eq_true, decide_eq_true_eq] at h
  exact BitVec.toInt_ofInt_eq_self (by decide) (by omega) (by omega)

/-- R111: before the first successful read no status register can be observed. -/
theorem observe_status_unread {s : State} (hv : s.stvalid = 0#1) {reg : RegName}
    (hreg : reg ∈ [RegName.rdy, .obsf, .stdet, .lev]) : observe reg s = .error .obsStatusNotValid := by
  obtain ⟨_, _, hstatus, _, _, _, hnames⟩ := observationFaults s reg
  exact hstatus (hnames.2 (by simpa using hreg)) (.inr hv)

/-- R91: a SYNC that answers `OK` ends with a successful read, and leaves its status. -/
theorem read_of_ok {i : Instr} {s t : State} (h : runsSync i s = true) (ht : exec i s = .next t)
    (hok : t.responses = s.responses ++ [.ok]) :
    t.stvalid = 1#1 ∧
      ∃ buf, t.history.getLast? = some (.busReadEv t.cfg.addr (.ok buf)) ∧ t.status = decodeStatus buf := by
  rcases exec_runs_cases h with ⟨e, ws, n, hx⟩ | ⟨e, ws, rs, n, hx⟩ | ⟨buf, ws, rs, n, hx⟩ <;>
    obtain rfl := Host.Outcome.next.inj (hx.symm.trans ht)
  · simp at hok
  · simp at hok
  · exact ⟨rfl, buf, by simp, rfl⟩

/-- Settles O25: the column without SYNC is the next state of `exec_skips`; the column with SYNC is
`syncedConfig` and the status of the read that ended in `OK`, and any other response leaves no instance. -/
theorem stateAfterInit : Obligations.StateAfterInit := by
  intro a7 imm bnd st sm nc hc s hl himm
  by_cases hskip : s.params.skipInitialSyncWhenZero = true ∧ imm ≤ 0
  · have hnonpos : imm ≤ 0 := hskip.2
    refine ⟨_, .ok, exec_skips (accepted_init hl) (skipsSync_init.2 hskip), rfl, fun _ => ?_,
      fun _ hne => absurd rfl hne, fun _ _ => ?_, fun hne => absurd rfl hne⟩
    · exact ⟨rfl, initRegisters_initConfig a7 imm bnd st sm nc hc⟩
    · exact ⟨rfl, toInt_ofInt_of_immInRange himm, hnonpos, rfl, fun reg => observe_status_unread rfl⟩
  · have hrun : runsSync (.init a7 imm bnd st sm nc hc) s = true := runsSync_init hl hskip
    obtain ⟨t, ht⟩ := exec_goes_on (.init a7 imm bnd st sm nc hc) s
    obtain ⟨r, hresp, hlc⟩ := response_lc_of_runsSync hrun ht
    have hcfg : t.cfg = syncedConfig (.init a7 imm bnd st sm nc hc) s.cfg := cfg_of_runsSync hrun ht
    have hready : t.lc = .ready ↔ r = .ok := hlc ▸ lcAfter_init rfl r
    have hregs : InitRegisters a7 st sm nc hc t.cfg :=
      hcfg ▸ initRegisters_syncedConfig a7 imm bnd st sm nc hc s.cfg
    refine ⟨t, r, ht, hresp, fun hok => ⟨hready.2 hok, hregs⟩, fun hok _ => ?_,
      fun _ hsame => absurd hsame (history_ne_of_runsSync hrun ht), fun hne => ?_⟩
    · subst hok
      obtain ⟨haddr, _⟩ := hregs
      have hread := read_of_ok hrun ht hresp
      rw [haddr] at hread
      rw [hcfg]
      exact ⟨syncedConfig_band _ s.cfg, syncedConfig_f _ s.cfg, hread⟩
    · have hun : t.lc = .unconstructed := (lc_cases t).resolve_right (mt hready.1 hne)
      exact ⟨hun, fun reg => observe_unconstructed hun⟩

end Sys2Proof.Machine

/-! Decode and encode agree (30_encoding.md section 4): the other direction of the round trip, and
well-formedness. -/

namespace Sys2Proof

/-- R67: the word of an instruction agrees with the instruction's row. -/
theorem encode_match (i : Instr) : encode i &&& i.opcode.mask = i.opcode.matchBits := by
  cases i with
  | init a7 imm bnd st sm nc hc => exact Laws.EncodedRow.init a7 imm bnd st sm nc hc
  | setf imm => exact Laws.EncodedRow.setf imm
  | chgf imm => exact Laws.EncodedRow.chgf imm
  | srch en dir imm => exact Laws.EncodedRow.srch en dir imm
  | mute en => exact Laws.EncodedRow.mute en
  | stby en => exact Laws.EncodedRow.stby en

/-- A row reads back the operands its instruction was laid out with (R65, R68). -/
theorem read_encode {i : Instr} (h : i.WellFormed) : i.opcode.read (encode i) = i := by
  cases i with
  | mute en => simp [Instr.opcode, Opcode.read, encode]
  | stby en => simp [Instr.opcode, Opcode.read, encode]
  | _ => simp [Instr.opcode, Opcode.read, encode, fieldImm_wordOf _ _ _ _ _ _ _ _ _ _ h]

/-- What a row reads from a word is well formed: the one checked operand is a sign-extended field (R68). -/
theorem wf_read (op : Opcode) (cmd : Command) : (op.read cmd).WellFormed := by
  cases op with
  | mute => rfl
  | stby => rfl
  | _ => exact immInRange_fieldImm cmd

theorem wf_of_decode {cmd : Command} {i : Instr} (h : decode cmd = .ok i) : i.WellFormed := by
  obtain ⟨op, _, rfl⟩ := match_of_decode h
  exact wf_read op cmd

/-- Settles O1: the encoded word agrees with its row (`encode_match`), which reads its operands back. -/
theorem decodeOfEncode : Obligations.DecodeOfEncode := fun i hwf => by
  rw [decode_of_match i.opcode (encode_match i), read_encode hwf]

/-- Settles O2: a word decodes by the row it agrees with, which drops no bit of it. -/
theorem encodeOfDecode : Obligations.EncodeOfDecode :=
  fun _ _ h => ⟨wf_of_decode h, encode_of_decode h⟩

/-- Settles O5: each word agrees with its row, and the row reads these operands from it. -/
theorem sampleWordsDecode : Obligations.SampleWordsDecode :=
  ⟨decode_of_match .init rfl, decode_of_match .init rfl, decode_of_match .setf rfl, decode_of_match .chgf rfl,
    decode_of_match .srch rfl, decode_of_match .srch rfl, decode_of_match .mute rfl, decode_of_match .stby rfl⟩

end Sys2Proof

/-! The illegal words (30_encoding.md section 6). -/

namespace Sys2Proof.Machine

/-- The decoder's own causes come before the lifecycle check, which gives neither of them (R72, R73). -/
theorem decode_error_iff_failedCheck {cmd : Command} {cause : IllegalCause}
    (h : cause = .opcode ∨ cause = .reservedBits) (lc : Lifecycle) :
    decode cmd = .error cause ↔ failedCheck cmd lc = some cause := by
  cases hdec : decode cmd with
  | error c => simp [failedCheck_of_error hdec]
  | ok i =>
    rw [failedCheck_of_ok hdec, lifecycleCheck_eq_some_iff]
    rcases h with rfl | rfl <;> simp

/-- The decoder answers no lifecycle cause (R72). -/
theorem cause_of_decode_error {cmd : Command} {cause : IllegalCause} (h : decode cmd = .error cause) :
    cause = .opcode ∨ cause = .reservedBits := by
  cases hop : Opcode.ofBits (fieldOP cmd) with
  | none =>
    rw [decode_of_reserved hop] at h
    exact .inl (Except.error.inj h).symm
  | some op =>
    rw [decode_of_ofBits hop] at h
    split at h
    · cases h
    · exact .inr (Except.error.inj h).symm

/-- Settles O4: the decoder's two checks are the first two of R73, whose conditions `failedCheck_iff` gives. -/
theorem illegalWordsByCause : Obligations.IllegalWordsByCause := by
  intro cmd
  obtain ⟨hopcode, hbits, _, _⟩ := failedCheck_iff cmd .ready
  refine ⟨(decode_error_iff_failedCheck (.inl rfl) _).trans hopcode,
    (decode_error_iff_failedCheck (.inr rfl) _).trans hbits, fun h => ?_, fun h => ?_⟩
  · simpa using cause_of_decode_error h
  · simpa using cause_of_decode_error h

end Sys2Proof.Machine

/-! What a whole command leaves (40_commands.md section 0, 41_sync_encode.md rules R89 to R92): the parameters
and the command port, one stretch of the bus history, and the status with its validity. -/

namespace Sys2Proof.Machine

/-- What one step adds to the bus history (R89 to R91): nothing, a failed write alone, or the whole exchange. -/
inductive StepEvents : List BusEvent → Prop
  | none : StepEvents []
  | failedWrite (a : DevAddr) (img : Image) (e : BusError) : StepEvents [.busWriteEv a img (.err e)]
  | exchange (a : DevAddr) (img : Image) (d : Nat) (r : ReadResult) :
      StepEvents [.busWriteEv a img .ok, .settleEv d, .busReadEv a r]

section
variable {i : Instr} {s t : State}

/-- A command writes no parameter and takes no further input. -/
theorem params_inputs_of_exec (ht : exec i s = .next t) : t.params = s.params ∧ t.inputs = s.inputs := by
  rcases exec_kinds i s with hoff | ⟨ha, hk⟩ | hrun
  · obtain rfl := Host.Outcome.next.inj ((exec_turned_away hoff).symm.trans ht)
    exact ⟨rfl, rfl⟩
  · obtain rfl := Host.Outcome.next.inj ((exec_skips ha hk).symm.trans ht)
    exact ⟨rfl, rfl⟩
  · rcases exec_runs_cases hrun with ⟨_, _, _, hx⟩ | ⟨_, _, _, _, hx⟩ | ⟨_, _, _, _, hx⟩ <;>
    · obtain rfl := Host.Outcome.next.inj (hx.symm.trans ht)
      exact ⟨rfl, rfl⟩

theorem stepEvents_of_exec (ht : exec i s = .next t) :
    ∃ events, t.history = s.history ++ events ∧ StepEvents events := by
  rcases exec_kinds i s with hoff | ⟨ha, hk⟩ | hrun
  · obtain rfl := Host.Outcome.next.inj ((exec_turned_away hoff).symm.trans ht)
    exact ⟨[], (List.append_nil _).symm, .none⟩
  · obtain rfl := Host.Outcome.next.inj ((exec_skips ha hk).symm.trans ht)
    exact ⟨[], (List.append_nil _).symm, .none⟩
  · rcases exec_runs_cases hrun with ⟨_, _, _, hx⟩ | ⟨_, _, _, _, hx⟩ | ⟨_, _, _, _, hx⟩ <;>
      obtain rfl := Host.Outcome.next.inj (hx.symm.trans ht)
    · exact ⟨_, rfl, .failedWrite ..⟩
    · exact ⟨_, rfl, .exchange ..⟩
    · exact ⟨_, rfl, .exchange ..⟩

/-- How the SYNC of a command ends (R74, R92): in `OK`, with valid status and an instance, or in a transport
error, which leaves `STVALID` as SYNC found it. -/
theorem ending_of_runsSync (h : runsSync i s = true) (ht : exec i s = .next t) :
    (t.responses = s.responses ++ [.ok] ∧ t.lc = .ready ∧ t.stvalid = 1#1) ∨
    (∃ ph e, t.responses = s.responses ++ [.transport ph e] ∧ t.lc = lcAfter i (.transport ph e) ∧
      t.stvalid = syncedStvalid i s) := by
  rcases exec_runs_cases h with ⟨e, _, _, hx⟩ | ⟨e, _, _, _, hx⟩ | ⟨_, _, _, _, hx⟩ <;>
    obtain rfl := Host.Outcome.next.inj (hx.symm.trans ht)
  · exact .inr ⟨.write, e, rfl, rfl, rfl⟩
  · exact .inr ⟨.read, e, rfl, rfl, rfl⟩
  · exact .inl ⟨rfl, rfl, rfl⟩

/-- The status is written by a successful read alone, which ends the history (R91, R101). -/
theorem status_of_runsSync (h : runsSync i s = true) (ht : exec i s = .next t) :
    (t.status = s.status ∧ t.stvalid = syncedStvalid i s) ∨
    ∃ buf, t.history.getLast? = some (.busReadEv t.cfg.addr (.ok buf)) ∧ t.status = decodeStatus buf ∧
      t.stvalid = 1#1 := by
  rcases exec_runs_cases h with ⟨_, _, _, hx⟩ | ⟨_, _, _, _, hx⟩ | ⟨buf, _, _, _, hx⟩ <;>
    obtain rfl := Host.Outcome.next.inj (hx.symm.trans ht)
  · exact .inl ⟨rfl, rfl⟩
  · exact .inl ⟨rfl, rfl⟩
  · exact .inr ⟨buf, by simp, rfl, rfl⟩

theorem syncFrame_of_runsSync (h : runsSync i s = true) (ht : exec i s = .next t) :
    SyncFrame s t (syncedStvalid i s) := by
  obtain ⟨hparams, hinputs⟩ := params_inputs_of_exec ht
  obtain ⟨events, hhist, _⟩ := stepEvents_of_exec ht
  refine ⟨hparams, hinputs, ?_, ⟨events, hhist⟩, status_of_runsSync h ht⟩
  obtain ⟨hok, _⟩ | ⟨ph, e, herr, _⟩ := ending_of_runsSync h ht
  · exact ⟨.ok, rfl, hok⟩
  · exact ⟨.transport ph e, rfl, herr⟩

end

/-- Settles O19: two of the three outcomes of `exec_runs_cases` are the exchange, the third a failed write. -/
theorem settleBetweenWriteAndRead : Obligations.SettleBetweenWriteAndRead := by
  intro i s hrun
  rcases exec_runs_cases hrun with ⟨_, _, _, hx⟩ | ⟨_, _, _, _, hx⟩ | ⟨_, _, _, _, hx⟩
  · exact ⟨_, hx, .inl ⟨_, _, _, rfl⟩⟩
  · exact ⟨_, hx, .inr ⟨_, _, _, rfl⟩⟩
  · exact ⟨_, hx, .inr ⟨_, _, _, rfl⟩⟩

/-- Settles O23: INIT runs its SYNC on the configuration `initConfig`, with `STVALID` cleared, and `LC` follows
the response. -/
theorem initConstructs : Obligations.InitConstructs := by
  intro a7 imm bnd st sm nc hc s hl hskip
  have hrun : runsSync (.init a7 imm bnd st sm nc hc) s = true := runsSync_init hl hskip
  obtain ⟨t, ht⟩ := exec_goes_on (.init a7 imm bnd st sm nc hc) s
  exact ⟨t, ht, cfg_of_runsSync hrun ht, ending_of_runsSync hrun ht, syncFrame_of_runsSync hrun ht⟩

end Sys2Proof.Machine

/-! The commands of a constructed block, one by one (40_commands.md sections 2 to 5). -/

namespace Sys2Proof.Machine

section
variable {i : Instr} {s : State}

theorem runsSync_of_ready (hl : s.lc = .ready) (hi : i.isInit = false) : runsSync i s = true := by
  cases i with
  | init a7 imm bnd st sm nc hc => cases hi
  | _ => simp [runsSync, accepted, skipsSync, hl]

/-- What every command but INIT leaves on a constructed block: its own register writes under SYNC step 1, a bus
access, and the frame of SYNC (R75 to R80, R92). -/
theorem exec_ready_leaves (hl : s.lc = .ready) (hi : i.isInit = false) :
    ∃ t, exec i s = .next t ∧ t.cfg = syncedConfig i s.cfg ∧ t.lc = .ready ∧ t.history ≠ s.history ∧
      SyncFrame s t s.stvalid := by
  have hrun : runsSync i s = true := runsSync_of_ready hl hi
  obtain ⟨t, ht⟩ := exec_goes_on i s
  obtain ⟨r, _, hlc⟩ := response_lc_of_runsSync hrun ht
  have hframe := syncFrame_of_runsSync hrun ht
  rw [syncedStvalid, if_neg (by simp [hi])] at hframe
  exact ⟨t, ht, cfg_of_runsSync hrun ht, hlc.trans (lcAfter_other hi r), history_ne_of_runsSync hrun ht,
    hframe⟩

end

/-- The direction bit of a retune (R76). -/
theorem bit_nonneg (delta : Int) : bit (0 ≤ delta) = if delta < 0 then 0#1 else 1#1 := by
  by_cases h : delta < 0
  · simp [bit, h]
  · simp [bit, h, not_lt.1 h]

/-- SNAP with level 7 among its fallbacks (R78). -/
theorem snap_eq (level : Int) :
    snap level =
      if level = 0 then 0b00#2 else if level = 5 then 0b01#2 else if level = 10 then 0b11#2 else 0b10#2 := by
  by_cases h : level = 7
  · subst h
    decide
  · simp [snap, h]

/-- Settles O26: SETF writes nothing before its SYNC, which it asks for its operand. -/
theorem setfTunes : Obligations.SetfTunes := by
  intro imm s hl
  obtain ⟨t, ht, hcfg, hlc, _, hframe⟩ := exec_ready_leaves (i := .setf imm) hl rfl
  exact ⟨t, ht, hcfg, hlc, hframe⟩

/-- Settles O27: CHGF writes the direction bit, and asks its SYNC for the exact sum. -/
theorem chgfRetunes : Obligations.ChgfRetunes := by
  intro imm s hl
  obtain ⟨t, ht, hcfg, hlc, _, hframe⟩ := exec_ready_leaves (i := .chgf imm) hl rfl
  rw [← bit_nonneg]
  exact ⟨t, ht, hcfg, hlc, hframe⟩

/-- Settles O28: SRCH writes the three search registers, and asks its SYNC for `F`. -/
theorem srchSetsSearch : Obligations.SrchSetsSearch := by
  intro en dir imm s hl
  obtain ⟨t, ht, hcfg, hlc, _, hframe⟩ := exec_ready_leaves (i := .srch en dir imm) hl rfl
  rw [← snap_eq]
  exact ⟨t, ht, hcfg, hlc, hframe⟩

/-- Settles O29: MUTE writes its bit, and its SYNC accesses the bus whatever the bit was. -/
theorem muteSetsMute : Obligations.MuteSetsMute :=
  fun en _ hl => exec_ready_leaves (i := .mute en) hl rfl

/-- Settles O30: STBY writes its bit, and its SYNC accesses the bus whatever the bit was. -/
theorem stbySetsStandby : Obligations.StbySetsStandby :=
  fun en _ hl => exec_ready_leaves (i := .stby en) hl rfl

end Sys2Proof.Machine

/-! The write-access matrix (10_state.md section 5). -/

namespace Sys2Proof.Machine

/-- The blank cells of the matrix in the rows of the configuration registers: what may differ between the
configurations `c` before and `d` after a command of row `op`. -/
def ConfigAccess (op : Opcode) (c d : ConfigFile) : Prop :=
  (d.mute ≠ c.mute → op = .init ∨ op = .mute) ∧
  (d.stby ≠ c.stby → op = .init ∨ op = .stby) ∧
  ((d.stereo ≠ c.stereo ∨ d.smute ≠ c.smute ∨ d.hcc ≠ c.hcc ∨ d.snc ≠ c.snc) → op = .init) ∧
  (d.srch ≠ c.srch → op = .init ∨ op = .srch) ∧
  (d.sud ≠ c.sud → op = .init ∨ op = .chgf ∨ op = .srch) ∧
  (d.ssl ≠ c.ssl → op = .init ∨ op = .srch) ∧
  (d.addr ≠ c.addr → op = .init)

theorem configAccess_refl (op : Opcode) (c : ConfigFile) : ConfigAccess op c c := by
  simp [ConfigAccess]

theorem configAccess_init (c d : ConfigFile) : ConfigAccess .init c d := by
  simp [ConfigAccess]

/-- SYNC step 1 writes `F` and `BAND` only, which have no blank cell. -/
theorem configAccess_bandClamped {op : Opcode} {fin : Int} {c d : ConfigFile} (h : ConfigAccess op c d) :
    ConfigAccess op c (bandClamped fin d) := by
  simpa [ConfigAccess] using h

theorem configAccess_preSync (i : Instr) (c : ConfigFile) : ConfigAccess i.opcode c (preSync i c) := by
  cases i with
  | init a7 imm bnd st sm nc hc => exact configAccess_init _ _
  | setf imm => exact configAccess_refl _ _
  | chgf imm => simp [ConfigAccess, preSync, chgfConfig, Instr.opcode]
  | srch en dir imm => simp [ConfigAccess, preSync, srchConfig, Instr.opcode]
  | mute en => simp [ConfigAccess, preSync, muteConfig, Instr.opcode]
  | stby en => simp [ConfigAccess, preSync, stbyConfig, Instr.opcode]

section
variable {i : Instr} {s t : State}

theorem opcode_eq_init_iff : i.opcode = .init ↔ i.isInit = true := by
  cases i <;> simp [Instr.opcode, Instr.isInit]

theorem configAccess_of_exec (ht : exec i s = .next t) : ConfigAccess i.opcode s.cfg t.cfg := by
  rcases exec_kinds i s with hoff | ⟨_, hk⟩ | hrun
  · rw [cfg_of_turned_away hoff ht]
    exact configAccess_refl _ _
  · rw [opcode_eq_init_iff.2 (isInit_of_skipsSync hk)]
    exact configAccess_init _ _
  · rw [cfg_of_runsSync hrun ht]
    exact configAccess_bandClamped (configAccess_preSync i s.cfg)

/-- Only INIT writes `LC` (R38). -/
theorem lc_of_exec (hi : i.isInit = false) (ht : exec i s = .next t) : t.lc = s.lc := by
  rcases lc_cases s with hl | hl
  · obtain rfl := Host.Outcome.next.inj ((exec_other_on_unconstructed hi hl).symm.trans ht)
    rfl
  · obtain ⟨t', ht', _, hlc, _⟩ := exec_ready_leaves hl hi
    obtain rfl := Host.Outcome.next.inj (ht'.symm.trans ht)
    rw [hlc, hl]

/-- A command that changes the status has ended in a successful read. -/
theorem read_of_status_ne (ht : exec i s = .next t) (hne : t.status ≠ s.status) :
    ∃ buf, t.history.getLast? = some (.busReadEv t.cfg.addr (.ok buf)) := by
  rcases exec_kinds i s with hoff | ⟨ha, hk⟩ | hrun
  · obtain rfl := Host.Outcome.next.inj ((exec_turned_away hoff).symm.trans ht)
    exact absurd rfl hne
  · obtain rfl := Host.Outcome.next.inj ((exec_skips ha hk).symm.trans ht)
    exact absurd rfl hne
  · obtain ⟨hsame, _⟩ | ⟨buf, hread, _⟩ := status_of_runsSync hrun ht
    · exact absurd hsame hne
    · exact ⟨buf, hread⟩

/-- An instance keeps its lifecycle and its address under every command: INIT is turned away (R32, R38). -/
theorem lc_addr_of_exec_ready (hl : s.lc = .ready) (ht : exec i s = .next t) :
    t.lc = .ready ∧ t.cfg.addr = s.cfg.addr := by
  cases hi : i.isInit with
  | true =>
    obtain rfl := Host.Outcome.next.inj ((exec_init_on_ready hi hl).symm.trans ht)
    exact ⟨hl, rfl⟩
  | false =>
    obtain ⟨_, _, _, _, _, _, haddr⟩ := configAccess_of_exec ht
    have hother : i.opcode ≠ .init := by simp [opcode_eq_init_iff, hi]
    exact ⟨(lc_of_exec hi ht).trans hl, not_not.1 (mt haddr hother)⟩

end

/-- Settles O31: the step runs the command on the state with its word taken off the port, whose registers are
those of the state. -/
theorem writeAccessMatrix : Obligations.WriteAccessMatrix := by
  intro s t cmd rest i hin hdec hstep
  have ht : exec i (s.withInputs rest) = .next t := (step_command hin hdec).symm.trans hstep
  obtain ⟨hmute, hstby, hflags, hsrch, hsud, hssl, haddr⟩ := configAccess_of_exec ht
  refine ⟨hmute, hstby, hflags, hsrch, hsud, hssl, haddr, fun hlc => ?_,
    read_of_status_ne (s := s.withInputs rest) ht⟩
  cases hi : i.isInit with
  | true => exact opcode_eq_init_iff.2 hi
  | false => exact absurd (lc_of_exec hi ht) hlc

/-- Settles O32: an idle step and an illegal word write no register, and a command keeps the instance. -/
theorem constructedUntilReset : Obligations.ConstructedUntilReset := by
  intro s t hl hreset hstep
  rcases step_cases hstep with ⟨_, rfl⟩ | ⟨rest, hin, _⟩ | ⟨cmd, rest, cause, _, _, rfl⟩ |
    ⟨cmd, rest, i, _, _, hexec⟩
  · exact ⟨hl, rfl⟩
  · exact absurd (by rw [hin]; rfl) hreset
  · exact ⟨hl, rfl⟩
  · exact lc_addr_of_exec_ready (s := s.withInputs rest) hl hexec

end Sys2Proof.Machine

/-! The invariants of every step (10_state.md section 5, 20_memory.md section 5, 41_sync_encode.md
section 5). -/

namespace Sys2Proof.Machine

/-- A step keeps what a reset brings about, what a command keeps, and what the command and response ports have
no part in. -/
theorem step_preserves {P : State → Prop} (hinputs : ∀ s is, P s → P (s.withInputs is))
    (hrespond : ∀ s r, P s → P (s.respond r)) (hreset : ∀ s, P (hardwareReset s))
    (hexec : ∀ {i s t}, P s → exec i s = .next t → P t) {s t : State} (hs : P s) (hstep : step s = .next t) :
    P t := by
  rcases step_cases hstep with ⟨_, rfl⟩ | ⟨rest, _, rfl⟩ | ⟨cmd, rest, cause, _, _, rfl⟩ |
    ⟨cmd, rest, i, _, _, ht⟩
  · exact hs
  · exact hreset _
  · exact hrespond _ _ (hinputs _ rest hs)
  · exact hexec (hinputs _ rest hs) ht

section
variable {i : Instr} {s t : State}

/-- The register invariant under a command: only a SYNC makes status valid, and it leaves the block in band; the
skipping INIT needs the option on. -/
theorem registerInvariant_of_exec (hb : BandHeld s) (hv : LifecycleHeld s) (ht : exec i s = .next t) :
    BandHeld t ∧ LifecycleHeld t := by
  rcases exec_kinds i s with hoff | ⟨ha, hk⟩ | hrun
  · obtain rfl := Host.Outcome.next.inj ((exec_turned_away hoff).symm.trans ht)
    exact ⟨hb, hv⟩
  · obtain rfl := Host.Outcome.next.inj ((exec_skips ha hk).symm.trans ht)
    obtain ⟨a7, imm, bnd, st, sm, nc, hc, rfl⟩ := init_of_isInit (isInit_of_skipsSync hk)
    have hoption : s.params.skipInitialSyncWhenZero = true := (skipsSync_init.1 hk).1
    exact ⟨fun _ hor => by simp [hoption] at hor, fun _ => rfl⟩
  · refine ⟨fun _ _ => inBand_of_runsSync hrun ht, fun hun => ?_⟩
    obtain ⟨_, hready, _⟩ | ⟨ph, e, _, hlc, hstv⟩ := ending_of_runsSync hrun ht
    · cases hun.symm.trans hready
    · cases hi : i.isInit with
      | true => simp [hstv, syncedStvalid, hi]
      | false => cases hun.symm.trans (hlc.trans (lcAfter_other hi _))

end

/-- Settles O46: a command by `registerInvariant_of_exec`; the reset leaves no instance and no valid status. -/
theorem registerInvariantKept : Obligations.RegisterInvariantKept :=
  fun _ _ hb hv => step_preserves (P := fun s => BandHeld s ∧ LifecycleHeld s) (fun _ _ h => h)
    (fun _ _ h => h) (fun _ => ⟨nofun, fun _ => rfl⟩) (fun ⟨hb, hv⟩ => registerInvariant_of_exec hb hv)
    ⟨hb, hv⟩

/-- The last successful read of a longer history: the newer part's, if it has one. -/
theorem lastOkRead_append (h k : List BusEvent) : lastOkRead (h ++ k) = (lastOkRead k).or (lastOkRead h) := by
  induction h with
  | nil => simp [lastOkRead]
  | cons e rest ih =>
    simp only [List.cons_append, lastOkRead, ih]
    cases lastOkRead k <;> cases lastOkRead rest <;> rfl

section
variable {i : Instr} {s t : State}

/-- The status invariant under a command: a transport error adds no successful read, and leaves the status. -/
theorem statusFresh_of_exec (hf : StatusFresh s) (ht : exec i s = .next t) : StatusFresh t := by
  rcases exec_kinds i s with hoff | ⟨ha, hk⟩ | hrun
  · obtain rfl := Host.Outcome.next.inj ((exec_turned_away hoff).symm.trans ht)
    exact hf
  · obtain rfl := Host.Outcome.next.inj ((exec_skips ha hk).symm.trans ht)
    exact nofun
  · have hsynced : syncedStvalid i s = 1#1 → s.stvalid = 1#1 := by
      unfold syncedStvalid
      split
      · exact fun h => by cases h
      · exact id
    rcases exec_runs_cases hrun with ⟨e, _, _, hx⟩ | ⟨e, _, _, _, hx⟩ | ⟨buf, _, _, _, hx⟩ <;>
      obtain rfl := Host.Outcome.next.inj (hx.symm.trans ht)
    · exact fun hvalid => by rw [lastOkRead_append]; exact hf (hsynced hvalid)
    · exact fun hvalid => by rw [lastOkRead_append]; exact hf (hsynced hvalid)
    · exact fun _ => by rw [lastOkRead_append]; rfl

end

/-- Settles O47: a command by `statusFresh_of_exec`; the reset leaves no valid status, and no other step writes
the status or the history. -/
theorem statusIsLastSuccessfulRead : Obligations.StatusIsLastSuccessfulRead :=
  fun _ _ => step_preserves (P := StatusFresh) (fun _ _ h => h) (fun _ _ h => h) (fun _ => nofun)
    statusFresh_of_exec

/-- An ordered history goes on as its new part alone would. -/
theorem historyOrdered_append {h : List BusEvent} (hh : historyOrdered h = true) (k : List BusEvent) :
    historyOrdered (h ++ k) = historyOrdered k := by
  induction h using historyOrdered.induct with
  | case1 => rfl
  | case2 a img e rest ih => exact ih hh
  | case3 a img d b r rest ih =>
    simp only [historyOrdered, Bool.and_eq_true, decide_eq_true_eq] at hh
    obtain ⟨hab, hrest⟩ := hh
    simp [historyOrdered, hab, ih hrest]
  | _ => simp [historyOrdered] at hh

theorem historyOrdered_of_stepEvents {events : List BusEvent} (h : StepEvents events) :
    historyOrdered events = true := by
  cases h <;> simp [historyOrdered]

/-- One step takes the oldest input, and adds one stretch to the history (R52, R53). -/
theorem stepEvents_of_step {s t : State} (h : step s = .next t) :
    t.params = s.params ∧ t.inputs = s.inputs.tail ∧
    ∃ events, t.history = s.history ++ events ∧ StepEvents events := by
  rcases step_cases h with ⟨hin, rfl⟩ | ⟨rest, hin, rfl⟩ | ⟨cmd, rest, cause, hin, _, rfl⟩ |
    ⟨cmd, rest, i, hin, _, hexec⟩
  · exact ⟨rfl, by rw [hin]; rfl, [], (List.append_nil _).symm, .none⟩
  · exact ⟨rfl, by rw [hin]; rfl, [], (List.append_nil _).symm, .none⟩
  · exact ⟨rfl, by rw [hin]; rfl, [], (List.append_nil _).symm, .none⟩
  · obtain ⟨hparams, hinputs⟩ := params_inputs_of_exec hexec
    exact ⟨hparams, by rw [hin]; exact hinputs, stepEvents_of_exec (s := s.withInputs rest) hexec⟩

/-- Settles O48: each form of `StepEvents` is ordered by itself and holds one write and one read at most. -/
theorem busHistoryStaysOrdered : Obligations.BusHistoryStaysOrdered := by
  intro s t hs hstep
  obtain ⟨_, hinputs, events, hhist, hevents⟩ := stepEvents_of_step hstep
  refine ⟨?_, hinputs, events, hhist, ?_, ?_⟩
  · rw [hhist, historyOrdered_append hs, historyOrdered_of_stepEvents hevents]
  · cases hevents <;> simp
  · cases hevents <;> simp

/-- Settles O53: no step writes a parameter. -/
theorem parametersAreFixed : Obligations.ParametersAreFixed :=
  fun _ _ hstep => (stepEvents_of_step hstep).1

/-- Settles O49: at reset there is no instance, no valid status and no history. -/
theorem invariantsAtReset : Obligations.InvariantsAtReset :=
  ⟨nofun, fun _ => rfl, nofun, rfl⟩

/-- Settles O9: `step_command`, with the word taken off the port. -/
theorem stepRunsDecodedInstruction : Obligations.StepRunsDecodedInstruction :=
  fun _ _ _ _ hin hdec => step_command hin hdec

/-- Settles O11: each side of the lifecycle check turns the other's commands away. -/
theorem lifecycleTurnsAway : Obligations.LifecycleTurnsAway :=
  fun _ _ => ⟨exec_init_on_ready, exec_other_on_unconstructed⟩

/-- A step with nothing asked. -/
theorem step_idle {s : State} (hs : s.inputs = []) : step s = .next s := by
  simp [step, hs, idle]

/-- Settles O13: by the input at the head of the list, a command word by its one response. -/
theorem everyStepGoesOn : Obligations.EveryStepGoesOn := by
  intro s
  match hin : s.inputs with
  | [] => exact ⟨s, step_idle hin⟩
  | .reset :: rest => exact ⟨_, step_reset hin⟩
  | .command cmd :: rest =>
    obtain ⟨t, _, hstep, _⟩ := (oneResponsePerCommand s).1 cmd rest hin
    exact ⟨t, hstep⟩

end Sys2Proof.Machine

/-! The listed bus answers (20_memory.md section 2). -/

namespace Sys2Proof.Machine

section
variable {s : State} {ws : List WriteResult} {rs : List ReadResult}

/-- A listed write error ends SYNC there (R89); no read result is taken. -/
theorem syncBus_listed_writeError {e : BusError} (hw : s.writeAnswers = .err e :: ws) :
    syncBus s = (.transport .write e, { s with
      history := s.history ++ [.busWriteEv s.cfg.addr (writeImage s.params s.cfg) (.err e)],
      writeAnswers := ws }) := by
  simp [syncBus, memWrite_listed hw]

/-- After a listed `Ok`, SYNC goes on to its read on the state the write and the settle leave (R90, R91). -/
theorem syncBus_listed_write (hw : s.writeAnswers = .ok :: ws) :
    syncBus s = syncRead { s with
      history := s.history ++ [.busWriteEv s.cfg.addr (writeImage s.params s.cfg) .ok,
        .settleEv s.params.settleDelay],
      writeAnswers := ws } := by
  simp [syncBus, memWrite_listed hw, settle, State.record]

/-- A listed read error is taken, and nothing decoded (R91). -/
theorem syncRead_listed_error {e : BusError} (hr : s.readAnswers = .err e :: rs) :
    syncRead s = (.transport .read e, { s with
      history := s.history ++ [.busReadEv s.cfg.addr (.err e)], readAnswers := rs }) := by
  simp [syncRead, memRead, drawRead, hr, State.record]

end

/-- Settles O20: each listed outcome runs to its end, and leaves the rest of the lists and the draw counter. -/
theorem busAnswersAreTaken : Obligations.BusAnswersAreTaken := by
  intro i s ws rs e buf hrun
  refine ⟨⟨_, exec_runs_withAnswers hrun _ _, ?_⟩, ⟨_, exec_runs_withAnswers hrun _ _, ?_⟩,
    ⟨_, exec_runs_withAnswers hrun _ _, ?_⟩⟩
  · rw [syncBus_listed_writeError rfl]
    exact ⟨rfl, rfl, rfl, rfl⟩
  · rw [syncBus_listed_write rfl, syncRead_listed_error rfl]
    exact ⟨rfl, rfl, rfl, rfl⟩
  · rw [syncBus_listed_write rfl, syncRead_listed rfl]
    exact ⟨rfl, rfl, rfl, rfl, rfl⟩

end Sys2Proof.Machine

/-! Registers that hold no value are invisible (70_reset_and_hazards.md section 1): a command reads no status
register, and the configuration of a constructed block only. -/

namespace Sys2Proof.Machine

/-- What `SameButUnset` leaves open: the two register files. -/
theorem exists_with_of_sameButUnset {s t : State} (h : SameButUnset s t) :
    ∃ c st, t = (s.withCfg c).withStatus st ∧ (s.lc = .ready → s.cfg = c) ∧
      (s.lc = .ready → s.stvalid = 1#1 → s.status = st) := by
  obtain ⟨hlc, hstv, hparams, hinputs, hresp, hhist, hws, hrs, hdraws, hcfg, hstatus⟩ := h
  refine ⟨t.cfg, t.status, ?_, hcfg, hstatus⟩
  simp only [State.withCfg, State.withStatus, hlc, hstv, hparams, hinputs, hresp, hhist, hws, hrs, hdraws]

theorem sameButUnset_with {s : State} {c : ConfigFile} {st : StatusFile} (hc : s.lc = .ready → s.cfg = c)
    (hst : s.lc = .ready → s.stvalid = 1#1 → s.status = st) :
    SameButUnset s ((s.withCfg c).withStatus st) :=
  ⟨rfl, rfl, rfl, rfl, rfl, rfl, rfl, rfl, rfl, hc, hst⟩

section
variable {s t : State} {reg : RegName}

theorem regValue_config (hf : reg.file = .config) (h : s.cfg = t.cfg) : regValue s reg = regValue t reg := by
  cases reg <;> simp_all [regValue, RegName.file]

theorem regValue_status (hf : reg.file = .status) (h : s.status = t.status) :
    regValue s reg = regValue t reg := by
  cases reg <;> simp_all [regValue, RegName.file]

theorem regValue_bookkeeping (hf : reg.file = .bookkeeping) (hlc : s.lc = t.lc) (hstv : s.stvalid = t.stvalid) :
    regValue s reg = regValue t reg := by
  cases reg <;> simp_all [regValue, RegName.file]

/-- R111: a register that can be read is one that the two states agree on. -/
theorem observe_sameButUnset (h : SameButUnset s t) : observe reg s = observe reg t := by
  obtain ⟨hlc, hstv, _, _, _, _, _, _, _, hcfg, hstatus⟩ := h
  cases hf : reg.file with
  | bookkeeping =>
    rw [observe_bookkeeping s hf, observe_bookkeeping t hf, regValue_bookkeeping hf hlc hstv]
  | config =>
    rw [observe_config s hf, observe_config t hf, ← hlc]
    split
    · rfl
    next hl => rw [regValue_config hf (hcfg ((lc_cases s).resolve_left hl))]
  | status =>
    rw [observe_status s hf, observe_status t hf, ← hlc, ← hstv]
    split
    · rfl
    next hgood =>
      obtain ⟨hl, hv⟩ := not_or.1 hgood
      rw [regValue_status hf (hstatus ((lc_cases s).resolve_left hl)
        ((BitVec.eq_zero_or_eq_one _).resolve_left hv))]

end

section
variable (s : State) (st : StatusFile)

/-- The bus agent looks at no status register. -/
theorem memWrite_withStatus (addr : DevAddr) (img : Image) :
    memWrite addr img (s.withStatus st) = ((memWrite addr img s).1, (memWrite addr img s).2.withStatus st) := by
  cases h : s.writeAnswers <;> simp [memWrite, drawWrite, State.record, State.withStatus, h]

theorem memRead_withStatus (addr : DevAddr) :
    memRead addr (s.withStatus st) = ((memRead addr s).1, (memRead addr s).2.withStatus st) := by
  cases h : s.readAnswers <;> simp [memRead, drawRead, State.record, State.withStatus, h]

/-- The read of SYNC leaves other status registers in place where it fails, and overwrites them where it
succeeds. -/
theorem syncRead_withStatus :
    ∃ st', syncRead (s.withStatus st) = ((syncRead s).1, (syncRead s).2.withStatus st') ∧
      (st' = (syncRead s).2.status ∨
        st' = st ∧ (syncRead s).2.status = s.status ∧ (syncRead s).2.stvalid = s.stvalid) := by
  obtain ⟨r, rs, n, hr⟩ := memRead_spec s.cfg.addr s
  simp only [syncRead, State.withStatus_cfg, memRead_withStatus, hr]
  cases r with
  | err e => exact ⟨st, rfl, .inr ⟨rfl, rfl, rfl⟩⟩
  | ok buf => exact ⟨_, rfl, .inl rfl⟩

/-- The same for the whole bus part of SYNC, whose write image holds no status. -/
theorem syncBus_withStatus :
    ∃ st', syncBus (s.withStatus st) = ((syncBus s).1, (syncBus s).2.withStatus st') ∧
      (st' = (syncBus s).2.status ∨
        st' = st ∧ (syncBus s).2.status = s.status ∧ (syncBus s).2.stvalid = s.stvalid) := by
  obtain ⟨r, ws, n, hw⟩ := memWrite_spec s.cfg.addr (writeImage s.params s.cfg) s
  simp only [syncBus, State.withStatus_cfg, State.withStatus_params, memWrite_withStatus, hw]
  cases r with
  | err e => exact ⟨st, rfl, .inr ⟨rfl, rfl, rfl⟩⟩
  | ok =>
    exact syncRead_withStatus (settle { s with
      history := s.history ++ [.busWriteEv s.cfg.addr (writeImage s.params s.cfg) .ok],
      writeAnswers := ws, draws := n }) st

end

/-- The state a command's SYNC starts its bus part from. -/
def synced (i : Instr) (s : State) : State :=
  { s with cfg := syncedConfig i s.cfg, stvalid := syncedStvalid i s }

theorem exec_runs_synced {i : Instr} {s : State} (h : runsSync i s = true) :
    exec i s = .next (afterSync i s (syncBus (synced i s))) := exec_runs h

section
variable {i : Instr} {s : State} {c : ConfigFile} {st : StatusFile}

/-- What a command writes before its SYNC rests on the configuration of an instance only: INIT writes it all. -/
theorem preSync_congr {c d : ConfigFile} (h : i.isInit = false → c = d) : preSync i c = preSync i d := by
  cases i with
  | init a7 imm bnd st sm nc hc => rfl
  | _ => rw [h rfl]

theorem syncedConfig_congr {c d : ConfigFile} (h : i.isInit = false → c = d) :
    syncedConfig i c = syncedConfig i d := by
  cases i with
  | init a7 imm bnd st sm nc hc => rfl
  | _ => rw [h rfl]

/-- Acceptance looks at `LC` (R73), and the option of R15 at the parameters. -/
theorem checks_with (i : Instr) (s : State) (c : ConfigFile) (st : StatusFile) :
    accepted i ((s.withCfg c).withStatus st) = accepted i s ∧
    skipsSync i ((s.withCfg c).withStatus st) = skipsSync i s ∧
    runsSync i ((s.withCfg c).withStatus st) = runsSync i s := by
  cases i <;> exact ⟨rfl, rfl, rfl⟩

/-- The runs of SYNC from two such states part in the status at most, and not where it is valid. -/
theorem afterSync_sameButUnset (hc : i.isInit = false → s.cfg = c)
    (hst : i.isInit = false → s.stvalid = 1#1 → s.status = st) :
    SameButUnset (afterSync i s (syncBus (synced i s)))
      (afterSync i ((s.withCfg c).withStatus st) (syncBus (synced i ((s.withCfg c).withStatus st)))) := by
  have hsynced : synced i ((s.withCfg c).withStatus st) = (synced i s).withStatus st := by
    rw [synced, synced, syncedConfig_congr hc]
    rfl
  obtain ⟨st', hbus, hst'⟩ := syncBus_withStatus (synced i s) st
  rw [hsynced, hbus]
  refine sameButUnset_with (fun _ => rfl) fun _ hvalid => ?_
  obtain hdecoded | ⟨rfl, hkept, hstv⟩ := hst'
  · exact hdecoded.symm
  · have hstv' : syncedStvalid i s = 1#1 := hstv.symm.trans hvalid
    cases hi : i.isInit with
    | true => simp [syncedStvalid, hi] at hstv'
    | false =>
      rw [syncedStvalid, hi] at hstv'
      exact hkept.trans (hst hi hstv')

/-- A command keeps two such states alike. -/
theorem exec_sameButUnset (i : Instr) (hc : s.lc = .ready → s.cfg = c)
    (hst : s.lc = .ready → s.stvalid = 1#1 → s.status = st) :
    ∃ s' t', exec i s = .next s' ∧ exec i ((s.withCfg c).withStatus st) = .next t' ∧ SameButUnset s' t' := by
  obtain ⟨hacc, hskips, hruns⟩ := checks_with i s c st
  have hready (ha : accepted i s = true) (hi : i.isInit = false) : s.lc = .ready := by
    simpa [hi] using (accepted_lc i s).1 ha
  rcases exec_kinds i s with hoff | ⟨ha, hk⟩ | hrun
  · exact ⟨_, _, exec_turned_away hoff, exec_turned_away (hacc.trans hoff), sameButUnset_with hc hst⟩
  · have hcfg : preSync i s.cfg = preSync i c := preSync_congr fun hi => hc (hready ha hi)
    exact ⟨_, _, exec_skips ha hk, exec_skips (hacc.trans ha) (hskips.trans hk),
      sameButUnset_with (fun _ => hcfg) nofun⟩
  · have ha : accepted i s = true := accepted_of_runsSync hrun
    exact ⟨_, _, exec_runs_synced hrun, exec_runs_synced (hruns.trans hrun),
      afterSync_sameButUnset (fun hi => hc (hready ha hi)) fun hi => hst (hready ha hi)⟩

end

/-- Settles O50: an idle step, a reset and an illegal word write the same to both states, and a command by
`exec_sameButUnset`. -/
theorem unsetRegistersAreInvisible : Obligations.UnsetRegistersAreInvisible := by
  intro s t h
  refine ⟨fun _ => observe_sameButUnset h, ?_⟩
  obtain ⟨c, st, rfl, hc, hst⟩ := exists_with_of_sameButUnset h
  match hin : s.inputs with
  | [] => exact ⟨_, _, step_idle hin, step_idle hin, h⟩
  | .reset :: rest =>
    exact ⟨_, _, step_reset hin, step_reset hin, sameButUnset_with (fun _ => rfl) fun _ _ => rfl⟩
  | .command cmd :: rest =>
    cases hdec : decode cmd with
    | error cause => exact ⟨_, _, step_illegal hin hdec, step_illegal hin hdec, sameButUnset_with hc hst⟩
    | ok i =>
      rw [step_command hin hdec, step_command (s := (s.withCfg c).withStatus st) hin hdec]
      exact exec_sameButUnset i (s := s.withInputs rest) hc hst

end Sys2Proof.Machine

/-! QUANT and DEQUANT as nearest integers (41_sync_encode.md section 3, 42_status_decode.md). -/

namespace Sys2Proof.Machine

/-- Settles O36: half a step either way is the bound of `roundDiv_near`, and `roundDiv_unique` names the
only word nearer than that. -/
theorem quantIsNearest : Obligations.QuantIsNearest := by
  intro t f
  refine ⟨?_, fun k hk => ?_⟩
  · have hnear := quant_near t f
    have : |8192 * quant t f - (1000 * f + 225000)| ≤ 4096 := abs_le.2 ⟨by omega, by omega⟩
    omega
  · obtain ⟨hlo, hhi⟩ := abs_lt.1 (show |8192 * k - (1000 * f + 225000)| < 4096 by omega)
    exact roundDiv_unique _ _ t (by decide) k ⟨by omega, by omega⟩

/-- A tie, divided by 8, is `125 * f + 28125` at 512 modulo 1024: one class of frequencies, since 125 is odd. -/
theorem quant_tie_iff (f : Int) : f % 1024 = 287 ↔ 2 * ((1000 * f + 225000) % 8192) = 8192 := by
  omega

/-- Settles O37: `roundDiv` at the half, and on either side of it. -/
theorem quantTies : Obligations.QuantTies := by
  refine fun f => ⟨quant_tie_iff f, fun htie => ?_, fun hno => ?_⟩
  · have hhalf := (quant_tie_iff f).1 htie
    have hup : quant .halfUp f = (1000 * f + 225000) / 8192 + 1 := roundDiv_tie_halfUp hhalf
    have heven : quant .halfEven f = _ := roundDiv_tie_halfEven hhalf
    rw [hup, heven]
    refine ⟨rfl, ?_, ?_⟩ <;> split <;> omega
  · have hhalf := mt (quant_tie_iff f).2 hno
    refine roundDiv_eq_of_no_tie (by decide) (fun k hk => hhalf ?_) .halfEven .halfUp
    omega

/-- DEQUANT is nearer than half a unit to the frequency of the word, since it meets no tie (R97, R98). -/
theorem dequant_near (rw : Int) :
    -100000 < 2 * (100000 * dequant rw - (8192 * rw - 225000)) ∧
    2 * (100000 * dequant rw - (8192 * rw - 225000)) < 100000 := by
  obtain ⟨hlo, hhi⟩ := roundDiv_near (8192 * rw - 225000) 100000 .halfEven (by decide)
  have hno := dequant_no_tie rw (dequant rw)
  have hno' := dequant_no_tie rw (dequant rw - 1)
  unfold dequant at *
  constructor <;> omega

theorem dequant_mono {a b : Int} (h : a ≤ b) : dequant a ≤ dequant b := by
  obtain ⟨_, _⟩ := dequant_near a
  obtain ⟨_, _⟩ := dequant_near b
  omega

/-- OBSF holds DEQUANT of any readback word untruncated (R34). -/
theorem toInt_statusObsf (buf : Image) : (statusObsf buf).toInt = dequant (readbackWord buf).toNat := by
  have hlt := (readbackWord buf).isLt
  obtain ⟨hlo, hhi⟩ := dequant_near (readbackWord buf).toNat
  exact BitVec.toInt_ofInt_eq_self (by decide) (by omega) (by omega)

/-- Settles O41: OBSF is DEQUANT of a 14-bit word, which `dequant_near` bounds. -/
theorem observedFrequencyIsNearest : Obligations.ObservedFrequencyIsNearest := by
  refine ⟨fun buf => ?_, fun _ _ => dequant_mono⟩
  have hlt := (readbackWord buf).isLt
  obtain ⟨hlo, hhi⟩ := dequant_near (readbackWord buf).toNat
  have hobsf : (decodeStatus buf).obsf.toInt = dequant (readbackWord buf).toNat := toInt_statusObsf buf
  rw [hobsf]
  refine ⟨?_, by omega, by omega⟩
  have : |100000 * dequant (readbackWord buf).toNat - (8192 * ((readbackWord buf).toNat : Int) - 225000)| <
      50000 :=
    abs_lt.2 ⟨by omega, by omega⟩
  omega

/-- The two roundings together lose less than 54097 Hz. -/
theorem dequant_quant_near (t : TieRule) (f : Int) :
    -54096 ≤ 100000 * dequant (quant t f) - 1000 * f ∧ 100000 * dequant (quant t f) - 1000 * f ≤ 54096 := by
  obtain ⟨_, _⟩ := quant_near t f
  obtain ⟨_, _⟩ := dequant_near (quant t f)
  constructor <;> omega

/-- Settles O44: two multiples of 100 kHz that near are equal. -/
theorem tuneReadRoundTrip : Obligations.TuneReadRoundTrip := by
  intro t f _ _
  obtain ⟨_, _⟩ := dequant_quant_near t f
  exact ⟨abs_le.2 ⟨by omega, by omega⟩, fun _ => by omega⟩

end Sys2Proof.Machine

/-! The value each register name gives (10_state.md sections 2 to 5). -/

namespace Sys2Proof.Machine

/-- Settles O57: a name of a file that can be read gives the register of that name (`regValue`). -/
theorem observedValues : Obligations.ObservedValues := by
  refine fun s => ⟨fun hl => ?_, fun hl hv => ?_, observe_bookkeeping s rfl, observe_bookkeeping s rfl⟩
  · have hconfig {reg : RegName} (hf : reg.file = .config) : observe reg s = .ok (regValue s reg) := by
      rw [observe_config s hf, if_neg (by simp [hl])]
    exact ⟨hconfig rfl, hconfig rfl, hconfig rfl, hconfig rfl, hconfig rfl, hconfig rfl, hconfig rfl,
      hconfig rfl, hconfig rfl, hconfig rfl, hconfig rfl, hconfig rfl⟩
  · have hstatus {reg : RegName} (hf : reg.file = .status) : observe reg s = .ok (regValue s reg) := by
      rw [observe_status s hf, if_neg (by simp [hl, hv])]
    exact ⟨hstatus rfl, hstatus rfl, hstatus rfl, hstatus rfl⟩

end Sys2Proof.Machine

/-! The assembler, operand by operand and form by form (30_encoding.md section 5). -/

namespace Sys2Proof.Machine

/-- R70: an unsigned field holds exactly the integer written, so an integer of no such value is an error. -/
theorem asmUnsigned_eq_some_iff {n : Nat} {v : Int} {b : BitVec n} :
    asmUnsigned n v = some b ↔ (b.toNat : Int) = v := by
  have hlt : (b.toNat : Int) < 2 ^ n := by exact_mod_cast b.isLt
  unfold asmUnsigned
  constructor
  · intro h
    split at h
    next hv =>
      obtain rfl := Option.some.inj h
      rw [BitVec.toNat_ofInt, Int.emod_eq_of_lt hv.1 (by exact_mod_cast hv.2)]
      exact Int.toNat_of_nonneg hv.1
    · cases h
  · rintro rfl
    rw [if_pos ⟨by omega, hlt⟩, BitVec.ofInt_natCast, BitVec.ofNat_toNat, BitVec.setWidth_eq]

theorem immInRange_iff {v : Int} : immInRange v = true ↔ -2147483648 ≤ v ∧ v ≤ 2147483647 := by
  simp [immInRange]

theorem asmImm_int_eq_some_iff {v w : Int} :
    asmImm (.int v) = some w ↔ (-2147483648 ≤ v ∧ v ≤ 2147483647) ∧ v = w := by
  rw [← immInRange_iff]
  simp [asmImm]

/-- A flag field holds 0 or 1 (R70). -/
theorem flag_cases (b : Bit) : (b.toNat : Int) = 0 ∨ (b.toNat : Int) = 1 := by
  have := b.isLt
  omega

/-- An immediate that assembles is in range, integer or not (R70). -/
theorem immInRange_of_asmImm {a : AsmArg} {imm : Int} (h : asmImm a = some imm) : immInRange imm = true := by
  cases a with
  | int v =>
    obtain ⟨hv, rfl⟩ := asmImm_int_eq_some_iff.1 h
    exact immInRange_iff.2 hv
  | name n => cases h

section
variable {i : Instr}

/-- An INIT line is its operands. -/
theorem assemble_init_iff {addr freq band stereo smute snc hcc : AsmArg} :
    assemble ⟨.init, [addr, freq, band, stereo, smute, snc, hcc]⟩ = some i ↔
      ∃ a7 imm bnd st sm nc hc, asmAddr addr = some a7 ∧ asmImm freq = some imm ∧ asmBand band = some bnd ∧
        asmFlag stereo = some st ∧ asmFlag smute = some sm ∧ asmFlag snc = some nc ∧ asmFlag hcc = some hc ∧
        .init a7 imm bnd st sm nc hc = i := by
  simp [assemble, asmExpand, assembleFull, Option.bind_eq_some_iff]

theorem assemble_setf_iff {freq : AsmArg} :
    assemble ⟨.setf, [freq]⟩ = some i ↔ ∃ imm, asmImm freq = some imm ∧ .setf imm = i := by
  simp [assemble, asmExpand, assembleFull, Option.bind_eq_some_iff]

theorem assemble_chgf_iff {delta : AsmArg} :
    assemble ⟨.chgf, [delta]⟩ = some i ↔ ∃ imm, asmImm delta = some imm ∧ .chgf imm = i := by
  simp [assemble, asmExpand, assembleFull, Option.bind_eq_some_iff]

theorem assemble_srch_iff {en dir adc : AsmArg} :
    assemble ⟨.srch, [en, dir, adc]⟩ = some i ↔
      ∃ e d imm, asmFlag en = some e ∧ asmDir dir = some d ∧ asmImm adc = some imm ∧ .srch e d imm = i := by
  simp [assemble, asmExpand, assembleFull, Option.bind_eq_some_iff]

theorem assemble_mute_iff {en : AsmArg} :
    assemble ⟨.mute, [en]⟩ = some i ↔ ∃ e, asmFlag en = some e ∧ .mute e = i := by
  simp [assemble, asmExpand, assembleFull, Option.bind_eq_some_iff]

theorem assemble_stby_iff {en : AsmArg} :
    assemble ⟨.stby, [en]⟩ = some i ↔ ∃ e, asmFlag en = some e ∧ .stby e = i := by
  simp [assemble, asmExpand, assembleFull, Option.bind_eq_some_iff]

end

/-- The operand count of a mnemonic's full form (R70). -/
def fullOperands : Opcode → Nat
  | .init => 7
  | .srch => 3
  | .setf => 1
  | .chgf => 1
  | .mute => 1
  | .stby => 1

theorem fullOperands_eq_one {op : Opcode} (hinit : op ≠ .init) (hsrch : op ≠ .srch) : fullOperands op = 1 := by
  cases op with
  | init => exact absurd rfl hinit
  | srch => exact absurd rfl hsrch
  | _ => rfl

/-- What a line of the full syntax assembles to: its mnemonic's command, from the full form's operand count. -/
theorem assembleFull_form {l : AsmLine} {i : Instr} (h : assembleFull l = some i) :
    i.opcode = l.op ∧ l.args.length = fullOperands l.op ∧ i.WellFormed := by
  unfold assembleFull at h
  split at h
  case h_1 hop hargs =>
    obtain ⟨_, _, _, _, _, _, _, _, himm, _, _, _, _, _, rfl⟩ := assemble_init_iff.1 h
    rw [hop, hargs]
    exact ⟨rfl, rfl, immInRange_of_asmImm himm⟩
  case h_2 hop hargs =>
    obtain ⟨_, himm, rfl⟩ := assemble_setf_iff.1 h
    rw [hop, hargs]
    exact ⟨rfl, rfl, immInRange_of_asmImm himm⟩
  case h_3 hop hargs =>
    obtain ⟨_, himm, rfl⟩ := assemble_chgf_iff.1 h
    rw [hop, hargs]
    exact ⟨rfl, rfl, immInRange_of_asmImm himm⟩
  case h_4 hop hargs =>
    obtain ⟨_, _, _, _, _, himm, rfl⟩ := assemble_srch_iff.1 h
    rw [hop, hargs]
    exact ⟨rfl, rfl, immInRange_of_asmImm himm⟩
  case h_5 hop hargs =>
    obtain ⟨_, _, rfl⟩ := assemble_mute_iff.1 h
    rw [hop, hargs]
    exact ⟨rfl, rfl, rfl⟩
  case h_6 hop hargs =>
    obtain ⟨_, _, rfl⟩ := assemble_stby_iff.1 h
    rw [hop, hargs]
    exact ⟨rfl, rfl, rfl⟩
  case h_7 => cases h

/-- Expansion keeps the mnemonic (R71). -/
@[simp] theorem asmExpand_op (l : AsmLine) : (asmExpand l).op = l.op := by
  unfold asmExpand
  split <;> rfl

/-- What any line that assembles, pseudo-form or not, assembles to. -/
theorem assemble_form {l : AsmLine} {i : Instr} (h : assemble l = some i) :
    i.opcode = l.op ∧ (asmExpand l).args.length = fullOperands l.op ∧ i.WellFormed := by
  have hfull := assembleFull_form h
  rwa [asmExpand_op] at hfull

/-- Settles O7: the line is its operands (`assemble_init_iff`), and an unsigned operand that assembles is the
value of its field, which is in the field's range. -/
theorem initLineAssemblesInRange : Obligations.InitLineAssemblesInRange := by
  intro addr freq band stereo smute snc hcc i
  rw [assemble_init_iff]
  simp only [asmAddr, asmBand, asmFlag, asmUnsigned_eq_some_iff, asmImm_int_eq_some_iff]
  constructor
  · rintro ⟨a7, imm, bnd, st, sm, nc, hc, rfl, ⟨hfreq, rfl⟩, rfl, rfl, rfl, rfl, rfl, rfl⟩
    have ha7 := a7.isLt
    have hbnd := bnd.isLt
    exact ⟨by omega, hfreq, by omega, flag_cases st, flag_cases sm, flag_cases nc, flag_cases hc,
      a7, bnd, st, sm, nc, hc, rfl, rfl, rfl, rfl, rfl, rfl, rfl⟩
  · rintro ⟨_, hfreq, _, _, _, _, _, a7, bnd, st, sm, nc, hc, rfl, ha7, hbnd, hst, hsm, hnc, hhc⟩
    exact ⟨a7, freq, bnd, st, sm, nc, hc, ha7, ⟨hfreq, rfl⟩, hbnd, hst, hsm, hnc, hhc, rfl⟩

/-- Settles O8: what assembles is well formed, and then O1 decodes it. -/
theorem assembledLinesDecode : Obligations.AssembledLinesDecode := by
  intro l i h
  obtain ⟨_, _, hwf⟩ := assemble_form h
  exact ⟨hwf, decodeOfEncode i hwf⟩

/-- A one-bit field by its two values. -/
theorem exists_flag_iff {v : Int} {i : Instr} (mk : Bit → Instr) :
    (∃ e, asmFlag (.int v) = some e ∧ mk e = i) ↔ (v = 0 ∧ i = mk 0#1) ∨ (v = 1 ∧ i = mk 1#1) := by
  simp only [asmFlag, asmUnsigned_eq_some_iff]
  constructor
  · rintro ⟨e, rfl, rfl⟩
    obtain rfl | rfl := BitVec.eq_zero_or_eq_one e
    · exact .inl ⟨rfl, rfl⟩
    · exact .inr ⟨rfl, rfl⟩
  · rintro (⟨rfl, rfl⟩ | ⟨rfl, rfl⟩)
    · exact ⟨0#1, rfl, rfl⟩
    · exact ⟨1#1, rfl, rfl⟩

theorem exists_imm_iff {v : Int} {i : Instr} (mk : Int → Instr) :
    (∃ imm, asmImm (.int v) = some imm ∧ mk imm = i) ↔ (-2147483648 ≤ v ∧ v ≤ 2147483647) ∧ i = mk v := by
  simp only [asmImm_int_eq_some_iff]
  constructor
  · rintro ⟨imm, ⟨hv, rfl⟩, rfl⟩
    exact ⟨hv, rfl⟩
  · rintro ⟨hv, rfl⟩
    exact ⟨v, ⟨hv, rfl⟩, rfl⟩

/-- R70, R71: a line has the full form's operand count, or that of a pseudo-form of its mnemonic. -/
theorem operands_of_expanded {l : AsmLine} (h : (asmExpand l).args.length = fullOperands l.op) :
    l.args.length = fullOperands l.op ∨ (l.op = .init ∧ l.args.length = 6) ∨
      (l.op = .srch ∧ l.args.length ∈ [1, 2]) := by
  by_cases hinit : l.op = .init ∧ l.args.length = 6
  · exact .inr (.inl hinit)
  · by_cases hsrch : l.op = .srch ∧ l.args.length ∈ [1, 2]
    · exact .inr (.inr hsrch)
    · rw [asmExpand_of_not_pseudo hinit hsrch] at h
      exact .inl h

/-- Settles O55: the four lines are their operand, and any line's operand count is that of `fullOperands` or of
a pseudo-form. -/
theorem linesAssembleInRange : Obligations.LinesAssembleInRange := by
  refine ⟨fun v i => ⟨?_, ?_, ?_, ?_⟩, fun l i h => ?_⟩
  · exact assemble_setf_iff.trans (exists_imm_iff .setf)
  · exact assemble_chgf_iff.trans (exists_imm_iff .chgf)
  · exact assemble_mute_iff.trans (exists_flag_iff .mute)
  · exact assemble_stby_iff.trans (exists_flag_iff .stby)
  · obtain ⟨hop, hargs, _⟩ := assemble_form h
    rcases operands_of_expanded hargs with hfull | ⟨hinit, hsix⟩ | ⟨hsrch, hshort⟩
    · exact ⟨hop, fun hinit => .inr (by rw [hfull, hinit]; rfl),
        fun hsrch => .inr (.inr (by rw [hfull, hsrch]; rfl)),
        fun hinit hsrch => hfull.trans (fullOperands_eq_one hinit hsrch)⟩
    · exact ⟨hop, fun _ => .inl hsix, fun hsrch => (nomatch hinit.symm.trans hsrch),
        fun hne _ => absurd hinit hne⟩
    · refine ⟨hop, fun hinit => (nomatch hsrch.symm.trans hinit), fun _ => ?_, fun _ hne => absurd hsrch hne⟩
      rw [List.mem_pair] at hshort
      exact hshort.elim .inl fun h => .inr (.inl h)

/-- Settles O56: the text is read and assembled. -/
theorem sampleLinesAssemble : Obligations.SampleLinesAssemble := by
  refine ⟨?_, ?_, ?_, ?_, ?_, ?_, ?_, ?_, ?_, ?_⟩ <;> decide

section
variable {addr freq band stereo smute snc hcc : AsmArg}

/-- One operand in error makes the INIT line one (R70). -/
theorem assemble_init_eq_none (h : asmAddr addr = none ∨ asmImm freq = none ∨ asmBand band = none ∨
      asmFlag stereo = none ∨ asmFlag smute = none ∨ asmFlag snc = none ∨ asmFlag hcc = none) :
    assemble ⟨.init, [addr, freq, band, stereo, smute, snc, hcc]⟩ = none := by
  refine Option.eq_none_iff_forall_ne_some.2 fun i hi => ?_
  obtain ⟨_, _, _, _, _, _, _, haddr, hfreq, hband, hstereo, hsmute, hsnc, hhcc, _⟩ := assemble_init_iff.1 hi
  simp [haddr, hfreq, hband, hstereo, hsmute, hsnc, hhcc] at h

/-- The band operand enters an INIT line by its code only. -/
theorem assemble_init_congr_band {band' : AsmArg} (h : asmBand band = asmBand band') :
    assemble ⟨.init, [addr, freq, band, stereo, smute, snc, hcc]⟩ =
      assemble ⟨.init, [addr, freq, band', stereo, smute, snc, hcc]⟩ := by
  ext i
  rw [assemble_init_iff, assemble_init_iff, h]

end

section
variable {en dir adc : AsmArg}

/-- One operand in error makes the SRCH line one (R70). -/
theorem assemble_srch_eq_none (h : asmFlag en = none ∨ asmDir dir = none ∨ asmImm adc = none) :
    assemble ⟨.srch, [en, dir, adc]⟩ = none := by
  refine Option.eq_none_iff_forall_ne_some.2 fun i hi => ?_
  obtain ⟨_, _, _, hen, hdir, hadc, _⟩ := assemble_srch_iff.1 hi
  simp [hen, hdir, hadc] at h

/-- A SRCH line of integers with a direction name assembles exactly in range. -/
theorem assemble_srch_int_iff {v imm : Int} {d : Bit} {i : Instr} (hdir : asmDir dir = some d) :
    assemble ⟨.srch, [.int v, dir, .int imm]⟩ = some i ↔
      (v = 0 ∨ v = 1) ∧ (-2147483648 ≤ imm ∧ imm ≤ 2147483647) ∧
      ∃ e : Bit, (e.toNat : Int) = v ∧ i = .srch e d imm := by
  rw [assemble_srch_iff]
  simp only [hdir, asmFlag, asmUnsigned_eq_some_iff, asmImm_int_eq_some_iff]
  constructor
  · rintro ⟨e, d', _, rfl, hd, ⟨himm, rfl⟩, rfl⟩
    obtain rfl := Option.some.inj hd
    exact ⟨flag_cases e, himm, e, rfl, rfl⟩
  · rintro ⟨_, himm, e, he, rfl⟩
    exact ⟨e, d, imm, he, rfl, ⟨himm, rfl⟩, rfl⟩

end

/-- Settles O54: `asmBand` and `asmDir` say which names stand for which codes, and every other operand is an
integer. -/
theorem operandNamesHaveTheirCodes : Obligations.OperandNamesHaveTheirCodes := by
  refine ⟨fun addr freq stereo smute snc hcc => ⟨?_, ?_, ?_, ?_, ?_, ?_⟩,
    fun en imm i => ⟨assemble_srch_int_iff rfl, assemble_srch_int_iff rfl⟩,
    fun en adc v => assemble_srch_eq_none (.inr (.inl rfl)), fun en adc n hn => ?_,
    fun n a b c d e f => ⟨?_, ?_, ?_, ?_, ?_, ?_, ?_, ?_, fun op hop => ?_⟩⟩
  · exact assemble_init_congr_band (by decide)
  · exact assemble_init_congr_band (by decide)
  · exact assemble_init_congr_band (by decide)
  · exact assemble_init_congr_band (by decide)
  · exact assemble_init_eq_none (.inr (.inr (.inl rfl)))
  · exact assemble_init_eq_none (.inr (.inr (.inl rfl)))
  · have hdir : asmDir (.name n) = none := by
      revert n
      decide
    exact assemble_srch_eq_none (.inr (.inl hdir))
  · exact assemble_init_eq_none (.inl rfl)
  · exact assemble_init_eq_none (.inr (.inl rfl))
  · exact assemble_init_eq_none (.inr (.inr (.inr (.inl rfl))))
  · exact assemble_init_eq_none (.inr (.inr (.inr (.inr (.inl rfl)))))
  · exact assemble_init_eq_none (.inr (.inr (.inr (.inr (.inr (.inl rfl))))))
  · exact assemble_init_eq_none (.inr (.inr (.inr (.inr (.inr (.inr rfl))))))
  · exact assemble_srch_eq_none (.inl rfl)
  · exact assemble_srch_eq_none (.inr (.inr rfl))
  · cases op with
    | init => simp at hop
    | srch => simp at hop
    | _ => rfl

end Sys2Proof.Machine
